-- ==== Sys2Proof/Word.lean ====
section
/-! DEFINITION. The words and bytes that cross the command port and fill the wire streams (00_scope.md R9, 30_encoding.md R62). -/

namespace Sys2Proof

/-- A command or operand word of the 32-bit port (R61, R62, 20_memory.md R44). -/
abbrev Word := BitVec 32

/-- A byte of a wire stream (R9, 10_state.md R22). -/
abbrev Byte := BitVec 8

end Sys2Proof
end

