-- ==== Sys2Proof/Machine/Bytes.lean ====
section
/-! DEFINITION. Little-endian fields and bit packing (00_scope.md R10, R12; 20_memory.md R41, R42; 42_window_export.md R115). -/

namespace Sys2Proof.Machine

/-- `LE(n, x)` of 00_scope.md R10: n bytes, byte k being `(x div 2^(8k)) mod 256`. R10 gives it for
`x < 2^(8n)`; of a larger `x` these are the low n bytes: DESIGN CHOICE, unsafe, log 16. -/
def leBytes : Nat → Nat → List Byte
  | 0, _ => []
  | n + 1, x => BitVec.ofNat 8 x :: leBytes n (x / 256)

/-- `le(s)` of 00_scope.md R10, the number whose little-endian bytes are `s`. -/
def leValue : List Byte → Nat
  | [] => 0
  | b :: bs => b.toNat + 256 * leValue bs

/-- `MemRead(s, k, n)` of 00_scope.md R12: the n bytes of `s` from offset `k`, little-endian. R12 defines
it only for `k + n ≤ len(s)`; past the end it reads the bytes there are: DESIGN CHOICE, unsafe, log 16. -/
def memRead (s : List Byte) (k n : Nat) : Nat :=
  leValue ((s.drop k).take n)

/-- The number `Σ s[i] × 2^i` of a bit sequence, first bit least significant (20_memory.md R42). -/
def bitsValue : List Bool → Nat
  | [] => 0
  | b :: bs => b.toNat + 2 * bitsValue bs

/-- `ceil(n / 8)`: the bytes that n packed bits take (42_window_export.md R114, R115). -/
def packedLength (n : Nat) : Nat :=
  (n + 7) / 8

/-- `PackBits` of 42_window_export.md R115: bit `s[k]` goes to bit `k mod 8` of byte `k div 8`; the
unused high bits of the last byte are 0. -/
def packBits (s : List Bool) : List Byte :=
  (List.range (packedLength s.length)).map fun j =>
    BitVec.ofNat 8 (bitsValue ((s.drop (8 * j)).take 8))

end Sys2Proof.Machine
end

