-- ==== Sys2Proof/Syntax.lean ====
section
/-! DEFINITION. The 22 commands of SGC as data (30_encoding.md R64), their register names (R67) and contexts (10_state.md R24). -/

namespace Sys2Proof

/-- A frame register `F0` to `F3` (10_state.md R20). -/
inductive FReg where
  | f0 | f1 | f2 | f3
  deriving DecidableEq, Repr

/-- A wire-stream register `W0` to `W3` (10_state.md R22). -/
inductive WReg where
  | w0 | w1 | w2 | w3
  deriving DecidableEq, Repr

/-- A delta context (10_state.md R24). -/
inductive Ctx where
  | enc | dec
  deriving DecidableEq, Repr

/-- One command with its operands, one constructor per row of the opcode map (30_encoding.md R64).
Operand words stand in the order they are sent: rows before columns, except FDOWN's
`(hScale, vScale)` (R62, 00_scope.md R11). -/
inductive Instr where
  /-- FNEW `Fd, rows, cols` (R81). -/
  | fnew (fd : FReg) (rows cols : Word)
  /-- FGET `Fa, row, col` (R82). -/
  | fget (fa : FReg) (row col : Word)
  /-- FSET `Fd, v, row, col` (R83). -/
  | fset (fd : FReg) (v : Bool) (row col : Word)
  /-- FEQ `Fa, Fb` (R84). -/
  | feq (fa fb : FReg)
  /-- FDOWN `Fd, h_scale, v_scale` (R85). -/
  | fdown (fd : FReg) (hScale vScale : Word)
  /-- FROWS `Fa` (R86). -/
  | frows (fa : FReg)
  /-- FCOLS `Fa` (R87). -/
  | fcols (fa : FReg)
  /-- FXOR `Fd, Fa, Fb` (R101). -/
  | fxor (fd fa fb : FReg)
  /-- FXORA `Fd, Fa` (R102). -/
  | fxora (fd fa : FReg)
  /-- VGET `Fa, start_row, start_col, sub_rows, sub_cols, row, col` (R112). -/
  | vget (fa : FReg) (startRow startCol subRows subCols row col : Word)
  /-- VSET `Fd, v, start_row, start_col, sub_rows, sub_cols, row, col` (R113). -/
  | vset (fd : FReg) (v : Bool) (startRow startCol subRows subCols row col : Word)
  /-- VEXP `Wd, Fa, start_row, start_col, sub_rows, sub_cols` (R114). -/
  | vexp (wd : WReg) (fa : FReg) (startRow startCol subRows subCols : Word)
  /-- RLEENC `Wd, Fa` (R128). -/
  | rleenc (wd : WReg) (fa : FReg)
  /-- RLEDEC `Fd, Wa` (R133). -/
  | rledec (fd : FReg) (wa : WReg)
  /-- DFINIT `c, Fa` (R141). -/
  | dfinit (c : Ctx) (fa : FReg)
  /-- DFENC `Wd, Fa` (R142). -/
  | dfenc (wd : WReg) (fa : FReg)
  /-- DFDEC `Fd, Wa` (R143). -/
  | dfdec (fd : FReg) (wa : WReg)
  /-- WCLR `Wd` (R160). -/
  | wclr (wd : WReg)
  /-- WPUSH `Wd, byte` (R161). -/
  | wpush (wd : WReg) (byte : Byte)
  /-- WLEN `Wa` (R162). -/
  | wlen (wa : WReg)
  /-- WGET `Wa, idx` (R163). -/
  | wget (wa : WReg) (idx : Word)
  /-- RDCR `k` (R164); the legal indices are 0 to 6, `Instr.wellFormed`. -/
  | rdcr (k : Byte)
  deriving DecidableEq, Repr

/-- One transaction as the port delivers it: the command word and however many operand words the
host sent before the last-word mark (30_encoding.md R60). -/
structure Transaction where
  command : Word
  operands : List Word
  deriving DecidableEq, Repr

end Sys2Proof
end

