-- ==== Sys2Proof/WellFormed.lean ====
section
/-! DEFINITION. Which command terms the encoding can express (30_encoding.md R65 step 4). -/

namespace Sys2Proof

/-- Every term of `Instr` has an encoding except RDCR with an index above 6: register fields are two
bits and every value of them names a register (R61), operand words are any 32-bit value (R62). -/
def Instr.wellFormed : Instr → Bool
  | .fnew _ _ _ => true
  | .fget _ _ _ => true
  | .fset _ _ _ _ => true
  | .feq _ _ => true
  | .fdown _ _ _ => true
  | .frows _ => true
  | .fcols _ => true
  | .fxor _ _ _ => true
  | .fxora _ _ => true
  | .vget _ _ _ _ _ _ _ => true
  | .vset _ _ _ _ _ _ _ _ => true
  | .vexp _ _ _ _ _ _ => true
  | .rleenc _ _ => true
  | .rledec _ _ => true
  | .dfinit _ _ => true
  | .dfenc _ _ => true
  | .dfdec _ _ => true
  | .wclr _ => true
  | .wpush _ _ => true
  | .wlen _ => true
  | .wget _ _ => true
  | .rdcr k => decide (k.toNat ≤ 6)

end Sys2Proof
end

