-- ==== Sys2Proof/Decode.lean ====
section
/-! DEFINITION. The command word's fields, the opcode map, the decoder with its four checks, the encoder, the byte channel and the assembler form (30_encoding.md R60 to R67, 20_memory.md R44). -/

namespace Sys2Proof

/-- The fields of a command word (30_encoding.md R61). -/
structure Fields where
  op : BitVec 8
  rd : BitVec 2
  ra : BitVec 2
  rb : BitVec 2
  v : BitVec 1
  c : BitVec 1
  imm8 : BitVec 8
  reserved : BitVec 8
  deriving DecidableEq, Repr

/-- The fields of a command word, by the bit positions of R61. -/
def fieldsOf (w : Word) : Fields :=
  { op := w.extractLsb' 0 8
    rd := w.extractLsb' 8 2
    ra := w.extractLsb' 10 2
    rb := w.extractLsb' 12 2
    v := w.extractLsb' 14 1
    c := w.extractLsb' 15 1
    imm8 := w.extractLsb' 16 8
    reserved := w.extractLsb' 24 8 }

/-- The command word with the given fields, each shifted to its position (R61, R64). -/
def wordOf (f : Fields) : Word :=
  f.reserved ++ f.imm8 ++ f.c ++ f.v ++ f.rb ++ f.ra ++ f.rd ++ f.op

/-- The five formats, named by the number of operand words (R63). -/
inductive Format where
  | k0 | k1 | k2 | k4 | k6
  deriving DecidableEq, Repr

/-- The number of operand words of a format (R63). -/
def Format.operandWords : Format → Nat
  | .k0 => 0
  | .k1 => 1
  | .k2 => 2
  | .k4 => 4
  | .k6 => 6

/-- The 22 opcodes (R64). -/
inductive Opcode where
  | fnew | fget | fset | feq | fdown | frows | fcols
  | fxor | fxora
  | vget | vset | vexp
  | rleenc | rledec
  | dfinit | dfenc | dfdec
  | wclr | wpush | wlen | wget | rdcr
  deriving DecidableEq, Repr

/-- The opcodes in the order of the opcode map (R64). -/
def Opcode.all : List Opcode :=
  [.fnew, .fget, .fset, .feq, .fdown, .frows, .fcols, .fxor, .fxora, .vget, .vset, .vexp,
    .rleenc, .rledec, .dfinit, .dfenc, .dfdec, .wclr, .wpush, .wlen, .wget, .rdcr]

/-- The opcode number, column `op` of R64. -/
def Opcode.code : Opcode → BitVec 8
  | .fnew => 0x01#8
  | .fget => 0x02#8
  | .fset => 0x03#8
  | .feq => 0x04#8
  | .fdown => 0x05#8
  | .frows => 0x06#8
  | .fcols => 0x07#8
  | .fxor => 0x10#8
  | .fxora => 0x11#8
  | .vget => 0x18#8
  | .vset => 0x19#8
  | .vexp => 0x1A#8
  | .rleenc => 0x20#8
  | .rledec => 0x21#8
  | .dfinit => 0x28#8
  | .dfenc => 0x29#8
  | .dfdec => 0x2A#8
  | .wclr => 0x40#8
  | .wpush => 0x41#8
  | .wlen => 0x42#8
  | .wget => 0x43#8
  | .rdcr => 0x48#8

/-- The format of an opcode, column `format` of R64. -/
def Opcode.format : Opcode → Format
  | .fnew => .k2
  | .fget => .k2
  | .fset => .k2
  | .feq => .k0
  | .fdown => .k2
  | .frows => .k0
  | .fcols => .k0
  | .fxor => .k0
  | .fxora => .k0
  | .vget => .k6
  | .vset => .k6
  | .vexp => .k4
  | .rleenc => .k0
  | .rledec => .k0
  | .dfinit => .k0
  | .dfenc => .k0
  | .dfdec => .k0
  | .wclr => .k0
  | .wpush => .k0
  | .wlen => .k0
  | .wget => .k1
  | .rdcr => .k0

/-- Which optional fields of the command word an opcode uses; a field not used must be 0 (R64, R65). -/
structure UsedFields where
  rd : Bool := false
  ra : Bool := false
  rb : Bool := false
  v : Bool := false
  c : Bool := false
  imm8 : Bool := false
  deriving DecidableEq, Repr

/-- The used fields of an opcode, columns `rd` to `imm8` of R64. -/
def Opcode.uses : Opcode → UsedFields
  | .fnew => { rd := true }
  | .fget => { ra := true }
  | .fset => { rd := true, v := true }
  | .feq => { ra := true, rb := true }
  | .fdown => { rd := true }
  | .frows => { ra := true }
  | .fcols => { ra := true }
  | .fxor => { rd := true, ra := true, rb := true }
  | .fxora => { rd := true, ra := true }
  | .vget => { ra := true }
  | .vset => { rd := true, v := true }
  | .vexp => { rd := true, ra := true }
  | .rleenc => { rd := true, ra := true }
  | .rledec => { rd := true, ra := true }
  | .dfinit => { ra := true, c := true }
  | .dfenc => { rd := true, ra := true }
  | .dfdec => { rd := true, ra := true }
  | .wclr => { rd := true }
  | .wpush => { rd := true, imm8 := true }
  | .wlen => { ra := true }
  | .wget => { ra := true }
  | .rdcr => { imm8 := true }

/-- The opcode a number is assigned to, if any (R64, R66). -/
def Opcode.ofByte (b : BitVec 8) : Option Opcode :=
  Opcode.all.find? fun o => o.code == b

/-- The reserved bits and every field the opcode does not use are 0 (R65 step 2). -/
def Fields.unusedZero (f : Fields) (u : UsedFields) : Bool :=
  f.reserved == 0#8 && (u.rd || f.rd == 0#2) && (u.ra || f.ra == 0#2) && (u.rb || f.rb == 0#2) &&
    (u.v || f.v == 0#1) && (u.c || f.c == 0#1) && (u.imm8 || f.imm8 == 0#8)

/-- The frame register a 2-bit index field names (R61). -/
def FReg.ofField (x : BitVec 2) : FReg :=
  if x = 0#2 then .f0 else if x = 1#2 then .f1 else if x = 2#2 then .f2 else .f3

/-- The 2-bit index of a frame register (R61). -/
def FReg.field : FReg → BitVec 2
  | .f0 => 0#2
  | .f1 => 1#2
  | .f2 => 2#2
  | .f3 => 3#2

/-- The wire-stream register a 2-bit index field names (R61). -/
def WReg.ofField (x : BitVec 2) : WReg :=
  if x = 0#2 then .w0 else if x = 1#2 then .w1 else if x = 2#2 then .w2 else .w3

/-- The 2-bit index of a wire-stream register (R61). -/
def WReg.field : WReg → BitVec 2
  | .w0 => 0#2
  | .w1 => 1#2
  | .w2 => 2#2
  | .w3 => 3#2

/-- The context the `c` field selects: 0 = ENC, 1 = DEC (R61). -/
def Ctx.ofField (x : BitVec 1) : Ctx :=
  if x = 0#1 then .enc else .dec

/-- The `c` field of a context (R61). -/
def Ctx.field : Ctx → BitVec 1
  | .enc => 0#1
  | .dec => 1#1

/-- The bit value of the `v` field (R61). -/
def bitOfField (x : BitVec 1) : Bool := x == 1#1

/-- The `v` field of a bit value (R61). -/
def fieldOfBit (b : Bool) : BitVec 1 := BitVec.ofBool b

/-- The four ways a transaction is no legal command (R65). -/
inductive DecodeError where
  /-- Step 1: the opcode is unassigned. -/
  | badOpcode
  /-- Step 2: a reserved bit or an unused field is not 0. -/
  | reservedBits
  /-- Step 3: wrong number of operand words. -/
  | badLength
  /-- Step 4: RDCR with an index above 6. -/
  | badCr
  deriving DecidableEq, Repr

/-- Step 3 of R65 for format K0: no operand word. -/
def takeK0 (operands : List Word) (i : Except DecodeError Instr) : Except DecodeError Instr :=
  match operands with
  | [] => i
  | _ => .error .badLength

/-- Step 3 of R65 for format K1: exactly one operand word. -/
def takeK1 (operands : List Word) (k : Word → Instr) : Except DecodeError Instr :=
  match operands with
  | [a] => .ok (k a)
  | _ => .error .badLength

/-- Step 3 of R65 for format K2: exactly two operand words. -/
def takeK2 (operands : List Word) (k : Word → Word → Instr) : Except DecodeError Instr :=
  match operands with
  | [a, b] => .ok (k a b)
  | _ => .error .badLength

/-- Step 3 of R65 for format K4: exactly four operand words. -/
def takeK4 (operands : List Word) (k : Word → Word → Word → Word → Instr) :
    Except DecodeError Instr :=
  match operands with
  | [a, b, c, d] => .ok (k a b c d)
  | _ => .error .badLength

/-- Step 3 of R65 for format K6: exactly six operand words. -/
def takeK6 (operands : List Word) (k : Word → Word → Word → Word → Word → Word → Instr) :
    Except DecodeError Instr :=
  match operands with
  | [a, b, c, d, e, f] => .ok (k a b c d e f)
  | _ => .error .badLength

/-- Step 4 of R65: the control register index of RDCR. -/
def takeCr (k : Byte) : Except DecodeError Instr :=
  if k.toNat ≤ 6 then .ok (.rdcr k) else .error .badCr

/-- Steps 3 and 4 of R65 and the operands of the command. -/
def assemble (o : Opcode) (f : Fields) (ops : List Word) : Except DecodeError Instr :=
  match o with
  | .fnew => takeK2 ops (.fnew (FReg.ofField f.rd))
  | .fget => takeK2 ops (.fget (FReg.ofField f.ra))
  | .fset => takeK2 ops (.fset (FReg.ofField f.rd) (bitOfField f.v))
  | .feq => takeK0 ops (.ok (.feq (FReg.ofField f.ra) (FReg.ofField f.rb)))
  | .fdown => takeK2 ops (.fdown (FReg.ofField f.rd))
  | .frows => takeK0 ops (.ok (.frows (FReg.ofField f.ra)))
  | .fcols => takeK0 ops (.ok (.fcols (FReg.ofField f.ra)))
  | .fxor =>
    takeK0 ops (.ok (.fxor (FReg.ofField f.rd) (FReg.ofField f.ra) (FReg.ofField f.rb)))
  | .fxora => takeK0 ops (.ok (.fxora (FReg.ofField f.rd) (FReg.ofField f.ra)))
  | .vget => takeK6 ops (.vget (FReg.ofField f.ra))
  | .vset => takeK6 ops (.vset (FReg.ofField f.rd) (bitOfField f.v))
  | .vexp => takeK4 ops (.vexp (WReg.ofField f.rd) (FReg.ofField f.ra))
  | .rleenc => takeK0 ops (.ok (.rleenc (WReg.ofField f.rd) (FReg.ofField f.ra)))
  | .rledec => takeK0 ops (.ok (.rledec (FReg.ofField f.rd) (WReg.ofField f.ra)))
  | .dfinit => takeK0 ops (.ok (.dfinit (Ctx.ofField f.c) (FReg.ofField f.ra)))
  | .dfenc => takeK0 ops (.ok (.dfenc (WReg.ofField f.rd) (FReg.ofField f.ra)))
  | .dfdec => takeK0 ops (.ok (.dfdec (FReg.ofField f.rd) (WReg.ofField f.ra)))
  | .wclr => takeK0 ops (.ok (.wclr (WReg.ofField f.rd)))
  | .wpush => takeK0 ops (.ok (.wpush (WReg.ofField f.rd) f.imm8))
  | .wlen => takeK0 ops (.ok (.wlen (WReg.ofField f.ra)))
  | .wget => takeK1 ops (.wget (WReg.ofField f.ra))
  | .rdcr => takeK0 ops (takeCr f.imm8)

/-- Decoding a transaction: the checks of R65 in their order, then the command. -/
def decode (t : Transaction) : Except DecodeError Instr :=
  match Opcode.ofByte (fieldsOf t.command).op with
  | none => .error .badOpcode
  | some o =>
    if (fieldsOf t.command).unusedZero o.uses then assemble o (fieldsOf t.command) t.operands
    else .error .reservedBits

/-- The opcode of a command (R64). -/
def Instr.opcode : Instr → Opcode
  | .fnew _ _ _ => .fnew
  | .fget _ _ _ => .fget
  | .fset _ _ _ _ => .fset
  | .feq _ _ => .feq
  | .fdown _ _ _ => .fdown
  | .frows _ => .frows
  | .fcols _ => .fcols
  | .fxor _ _ _ => .fxor
  | .fxora _ _ => .fxora
  | .vget _ _ _ _ _ _ _ => .vget
  | .vset _ _ _ _ _ _ _ _ => .vset
  | .vexp _ _ _ _ _ _ => .vexp
  | .rleenc _ _ => .rleenc
  | .rledec _ _ => .rledec
  | .dfinit _ _ => .dfinit
  | .dfenc _ _ => .dfenc
  | .dfdec _ _ => .dfdec
  | .wclr _ => .wclr
  | .wpush _ _ => .wpush
  | .wlen _ => .wlen
  | .wget _ _ => .wget
  | .rdcr _ => .rdcr

/-- A command word with the opcode given and every other field 0 (R61). -/
def blankFields (o : Opcode) : Fields :=
  { op := o.code, rd := 0#2, ra := 0#2, rb := 0#2, v := 0#1, c := 0#1, imm8 := 0#8, reserved := 0#8 }

/-- The fields of a command's word: the opcode and the used fields, all others 0 (R64). -/
def Instr.fields : Instr → Fields
  | .fnew fd _ _ => { blankFields .fnew with rd := fd.field }
  | .fget fa _ _ => { blankFields .fget with ra := fa.field }
  | .fset fd v _ _ => { blankFields .fset with rd := fd.field, v := fieldOfBit v }
  | .feq fa fb => { blankFields .feq with ra := fa.field, rb := fb.field }
  | .fdown fd _ _ => { blankFields .fdown with rd := fd.field }
  | .frows fa => { blankFields .frows with ra := fa.field }
  | .fcols fa => { blankFields .fcols with ra := fa.field }
  | .fxor fd fa fb => { blankFields .fxor with rd := fd.field, ra := fa.field, rb := fb.field }
  | .fxora fd fa => { blankFields .fxora with rd := fd.field, ra := fa.field }
  | .vget fa _ _ _ _ _ _ => { blankFields .vget with ra := fa.field }
  | .vset fd v _ _ _ _ _ _ => { blankFields .vset with rd := fd.field, v := fieldOfBit v }
  | .vexp wd fa _ _ _ _ => { blankFields .vexp with rd := wd.field, ra := fa.field }
  | .rleenc wd fa => { blankFields .rleenc with rd := wd.field, ra := fa.field }
  | .rledec fd wa => { blankFields .rledec with rd := fd.field, ra := wa.field }
  | .dfinit c fa => { blankFields .dfinit with ra := fa.field, c := c.field }
  | .dfenc wd fa => { blankFields .dfenc with rd := wd.field, ra := fa.field }
  | .dfdec fd wa => { blankFields .dfdec with rd := fd.field, ra := wa.field }
  | .wclr wd => { blankFields .wclr with rd := wd.field }
  | .wpush wd byte => { blankFields .wpush with rd := wd.field, imm8 := byte }
  | .wlen wa => { blankFields .wlen with ra := wa.field }
  | .wget wa _ => { blankFields .wget with ra := wa.field }
  | .rdcr k => { blankFields .rdcr with imm8 := k }

/-- The operand words of a command in the order sent (R62, R64). -/
def Instr.operandWords : Instr → List Word
  | .fnew _ rows cols => [rows, cols]
  | .fget _ row col => [row, col]
  | .fset _ _ row col => [row, col]
  | .feq _ _ => []
  | .fdown _ hScale vScale => [hScale, vScale]
  | .frows _ => []
  | .fcols _ => []
  | .fxor _ _ _ => []
  | .fxora _ _ => []
  | .vget _ sr sc nr nc row col => [sr, sc, nr, nc, row, col]
  | .vset _ _ sr sc nr nc row col => [sr, sc, nr, nc, row, col]
  | .vexp _ _ sr sc nr nc => [sr, sc, nr, nc]
  | .rleenc _ _ => []
  | .rledec _ _ => []
  | .dfinit _ _ => []
  | .dfenc _ _ => []
  | .dfdec _ _ => []
  | .wclr _ => []
  | .wpush _ _ => []
  | .wlen _ => []
  | .wget _ idx => [idx]
  | .rdcr _ => []

/-- The transaction of a command (R60, R61, R64). -/
def encode (i : Instr) : Transaction :=
  { command := wordOf i.fields, operands := i.operandWords }

/-- The mask of an opcode's row: 1 in every bit that is the opcode, reserved, or an unused field (R64). -/
def Opcode.mask (o : Opcode) : Word :=
  wordOf
    { op := 0xFF#8
      rd := if o.uses.rd then 0#2 else 3#2
      ra := if o.uses.ra then 0#2 else 3#2
      rb := if o.uses.rb then 0#2 else 3#2
      v := if o.uses.v then 0#1 else 1#1
      c := if o.uses.c then 0#1 else 1#1
      imm8 := if o.uses.imm8 then 0#8 else 0xFF#8
      reserved := 0xFF#8 }

/-! ### The opcode table's numbering of a transaction's bits -/

/-- Word `k` of a transaction written as one number, word 0 in its low 32 bits, bits from `nbits` up
being 0. -/
def tableWord (nbits w k : Nat) : Word :=
  BitVec.ofNat 32 (w % 2 ^ nbits / 2 ^ (32 * k))

/-- How many operand words the port delivers with a command word of the opcode table: those of its
opcode's format, none for an unassigned opcode (log 8). -/
def tableOperandCount (command : Word) : Nat :=
  match Opcode.ofByte (fieldsOf command).op with
  | some o => o.format.operandWords
  | none => 0

/-- The transaction whose words are the bits of `w` (log 8). -/
def tableTransaction (nbits w : Nat) : Transaction :=
  { command := tableWord nbits w 0
    operands := (List.range (tableOperandCount (tableWord nbits w 0))).map fun k =>
      tableWord nbits w (k + 1) }

/-- The command the decoder reads from an instruction whose bits are `w`, numbered as the opcode
table numbers them. -/
def decodeTableWord (nbits w : Nat) : Option Instr :=
  (decode (tableTransaction nbits w)).toOption

/-! ### The byte channel of 20_memory.md R44 -/

/-- The words of a transaction, command word first (R60). -/
def Transaction.words (t : Transaction) : List Word := t.command :: t.operands

/-- A word on a byte channel, least significant byte first (20_memory.md R44). -/
def wordBytes (w : Word) : List Byte := Machine.leBytes 4 w.toNat

/-- A transaction on a byte channel (20_memory.md R44). -/
def Transaction.bytes (t : Transaction) : List Byte := t.words.flatMap wordBytes

/-- The whole words a byte channel carried; none when it ends inside a word (log 9). -/
def wordsOfBytes : List Byte → Option (List Word)
  | [] => some []
  | b0 :: b1 :: b2 :: b3 :: rest =>
    (wordsOfBytes rest).map fun ws => BitVec.ofNat 32 (Machine.leValue [b0, b1, b2, b3]) :: ws
  | _ => none

/-- The transaction a byte channel carried; none when it carried no whole word or ended inside a
word (20_memory.md R44, log 9). -/
def Transaction.ofBytes (bs : List Byte) : Option Transaction :=
  match wordsOfBytes bs with
  | some (command :: operands) => some { command := command, operands := operands }
  | _ => none

/-! ### Assembler form (R67) -/

/-- The name of a frame register (R67). -/
def FReg.name : FReg → String
  | .f0 => "F0"
  | .f1 => "F1"
  | .f2 => "F2"
  | .f3 => "F3"

/-- The name of a wire-stream register (R67). -/
def WReg.name : WReg → String
  | .w0 => "W0"
  | .w1 => "W1"
  | .w2 => "W2"
  | .w3 => "W3"

/-- The name of a context (R67). -/
def Ctx.name : Ctx → String
  | .enc => "ENC"
  | .dec => "DEC"

/-- The mnemonic of an opcode (R64). -/
def Opcode.mnemonic : Opcode → String
  | .fnew => "FNEW"
  | .fget => "FGET"
  | .fset => "FSET"
  | .feq => "FEQ"
  | .fdown => "FDOWN"
  | .frows => "FROWS"
  | .fcols => "FCOLS"
  | .fxor => "FXOR"
  | .fxora => "FXORA"
  | .vget => "VGET"
  | .vset => "VSET"
  | .vexp => "VEXP"
  | .rleenc => "RLEENC"
  | .rledec => "RLEDEC"
  | .dfinit => "DFINIT"
  | .dfenc => "DFENC"
  | .dfdec => "DFDEC"
  | .wclr => "WCLR"
  | .wpush => "WPUSH"
  | .wlen => "WLEN"
  | .wget => "WGET"
  | .rdcr => "RDCR"

/-- The register, context, bit and immediate operands of a command in the order of R67: destination,
sources, the `v` bit; numbers in decimal. -/
def Instr.namedOperands : Instr → List String
  | .fnew fd _ _ => [fd.name]
  | .fget fa _ _ => [fa.name]
  | .fset fd v _ _ => [fd.name, Nat.repr v.toNat]
  | .feq fa fb => [fa.name, fb.name]
  | .fdown fd _ _ => [fd.name]
  | .frows fa => [fa.name]
  | .fcols fa => [fa.name]
  | .fxor fd fa fb => [fd.name, fa.name, fb.name]
  | .fxora fd fa => [fd.name, fa.name]
  | .vget fa _ _ _ _ _ _ => [fa.name]
  | .vset fd v _ _ _ _ _ _ => [fd.name, Nat.repr v.toNat]
  | .vexp wd fa _ _ _ _ => [wd.name, fa.name]
  | .rleenc wd fa => [wd.name, fa.name]
  | .rledec fd wa => [fd.name, wa.name]
  | .dfinit c fa => [c.name, fa.name]
  | .dfenc wd fa => [wd.name, fa.name]
  | .dfdec fd wa => [fd.name, wa.name]
  | .wclr wd => [wd.name]
  | .wpush wd byte => [wd.name, Nat.repr byte.toNat]
  | .wlen wa => [wa.name]
  | .wget wa _ => [wa.name]
  | .rdcr k => [Nat.repr k.toNat]

/-- The assembler form of a command: `MNEMONIC operand, operand, ...` (R67), numbers in decimal
(log 14). -/
def Instr.assembler (i : Instr) : String :=
  i.opcode.mnemonic ++ " " ++
    String.intercalate ", " (i.namedOperands ++ i.operandWords.map fun w => Nat.repr w.toNat)

end Sys2Proof
end

