-- ==== Sys2Proof/Machine/Response.lean ====
section
/-! DEFINITION. Status codes, info codes and the response of a transaction (60_exceptions.md R170, R171, R172). -/

namespace Sys2Proof.Machine

/-- The seven statuses of 60_exceptions.md R170. -/
inductive Status where
  | ok
  | preconditionViolation
  | dimensionMismatch
  | bufferOverrun
  | stateError
  | desyncError
  | illegalCommand
  deriving DecidableEq, Repr

/-- The causes of an error, 60_exceptions.md R171. -/
inductive Info where
  | oobMatrix
  | oobView
  | zeroScale
  | sizeField
  | oobStream
  | operands
  | config
  | wCap
  | fCap
  | notSynced
  | shortHeader
  | partialRecord
  | lengthMismatch
  | frameSize
  | badOpcode
  | reservedBits
  | badCr
  | badLength
  deriving DecidableEq, Repr

/-- The 3-bit code of a status (R170). -/
def Status.code : Status → BitVec 3
  | .ok => 0#3
  | .preconditionViolation => 1#3
  | .dimensionMismatch => 2#3
  | .bufferOverrun => 3#3
  | .stateError => 4#3
  | .desyncError => 5#3
  | .illegalCommand => 6#3

/-- The status an info code belongs to (R171). -/
def Info.status : Info → Status
  | .oobMatrix => .preconditionViolation
  | .oobView => .preconditionViolation
  | .zeroScale => .preconditionViolation
  | .sizeField => .preconditionViolation
  | .oobStream => .preconditionViolation
  | .operands => .dimensionMismatch
  | .config => .dimensionMismatch
  | .wCap => .bufferOverrun
  | .fCap => .bufferOverrun
  | .notSynced => .stateError
  | .shortHeader => .desyncError
  | .partialRecord => .desyncError
  | .lengthMismatch => .desyncError
  | .frameSize => .desyncError
  | .badOpcode => .illegalCommand
  | .reservedBits => .illegalCommand
  | .badCr => .illegalCommand
  | .badLength => .illegalCommand

/-- The number of an info code (R171). -/
def Info.code : Info → Nat
  | .oobMatrix => 0x01
  | .oobView => 0x02
  | .zeroScale => 0x03
  | .sizeField => 0x04
  | .oobStream => 0x05
  | .operands => 0x11
  | .config => 0x12
  | .wCap => 0x21
  | .fCap => 0x22
  | .notSynced => 0x31
  | .shortHeader => 0x41
  | .partialRecord => 0x42
  | .lengthMismatch => 0x43
  | .frameSize => 0x44
  | .badOpcode => 0x51
  | .reservedBits => 0x52
  | .badCr => 0x53
  | .badLength => 0x54

/-- A response `(status, value)` on the response port: 3 bits and 32 bits (R172). -/
structure Response where
  status : BitVec 3
  value : Word
  deriving DecidableEq, Repr

/-- The response of a command that was carried out: `(OK, v)` (R172). The value is zero-extended, which
00_scope.md R12 defines only for `v < 2^32`; a larger `v`, which only FROWS, FCOLS, WLEN and RDCR could
have on states that no run reaches, is taken modulo 2^32: DESIGN CHOICE, unsafe, log 15. -/
def Response.ok (v : Nat) : Response :=
  { status := Status.ok.code, value := BitVec.ofNat 32 v }

/-- The response of a rejected command: its status and the info code, zero-extended (R172). -/
def Response.error (i : Info) : Response :=
  { status := i.status.code, value := BitVec.ofNat 32 i.code }

end Sys2Proof.Machine
end

