-- ==== Sys2Proof/Machine/MatrixValue.lean ====
section
/-! DEFINITION. Matrix values and the bounds-checked access to their bits (00_scope.md R11, 40_frame_store.md R80). -/

namespace Sys2Proof.Machine

/-- A matrix value `(rows, cols, bits)`, bits in row-major order (00_scope.md R11). -/
structure MatrixValue where
  rows : Nat
  cols : Nat
  bits : List Bool
  deriving DecidableEq, Repr

/-- `Zero(r, c)` (00_scope.md R11). -/
def MatrixValue.zero (r c : Nat) : MatrixValue :=
  { rows := r, cols := c, bits := List.replicate (r * c) false }

/-- `(row, col)` lies in the matrix: row and column are checked separately (40_frame_store.md R80). -/
def MatrixValue.inBounds (m : MatrixValue) (row col : Nat) : Bool :=
  decide (row < m.rows) && decide (col < m.cols)

/-- The logical index `row × cols + col` (00_scope.md R11). -/
def MatrixValue.index (m : MatrixValue) (row col : Nat) : Nat :=
  row * m.cols + col

/-- The bit at a linear index. An index past the end, which `bits.length = rows × cols` rules out
for every access in bounds, reads false: DESIGN CHOICE, safe, log 7. -/
def MatrixValue.bit (m : MatrixValue) (k : Nat) : Bool :=
  m.bits.getD k false

/-- `BitAt` of 40_frame_store.md R80. -/
def MatrixValue.bitAt (m : MatrixValue) (row col : Nat) : Except Info Bool :=
  if m.inBounds row col then .ok (m.bit (m.index row col)) else .error .oobMatrix

/-- `WithBit` of 40_frame_store.md R80. -/
def MatrixValue.withBit (m : MatrixValue) (row col : Nat) (v : Bool) : Except Info MatrixValue :=
  if m.inBounds row col then .ok { m with bits := m.bits.set (m.index row col) v }
  else .error .oobMatrix

/-- Equality of dimensions, one by one (40_frame_store.md R84, 41_xor_pipeline.md R101). -/
def MatrixValue.sameDims (a b : MatrixValue) : Bool :=
  decide (a.rows = b.rows) && decide (a.cols = b.cols)

/-- The verdict of `equals`: dimensions and every bit match (40_frame_store.md R84). -/
def MatrixValue.equals (a b : MatrixValue) : Bool :=
  a.sameDims b && decide (a.bits = b.bits)

/-- `downsample` of 40_frame_store.md R85: floor division of the dimensions, and for each new cell the
top-left cell of its block. -/
def MatrixValue.downsample (m : MatrixValue) (hScale vScale : Nat) : MatrixValue :=
  let nr := m.rows / vScale
  let nc := m.cols / hScale
  { rows := nr, cols := nc,
    bits := (List.range (nr * nc)).map fun k =>
      m.bit (m.index (k / nc * vScale) (k % nc * hScale)) }

end Sys2Proof.Machine
end

