-- ==== Sys2Proof/Config.lean ====
section
/-! DEFINITION. The implementation parameters of one SGC instance (00_scope.md R5) and the reference configuration (R7). -/

namespace Sys2Proof

/-- The parameters of 00_scope.md R5, fixed for the life of an instance. Which of them are legal
together is `Config.legal` (Machine/Params.lean, R6). -/
structure Config where
  /-- `RUN_WIDTH`: bits in one run record. -/
  runWidth : Nat
  /-- `SIZE_WIDTH`: bits in the size field. -/
  sizeWidth : Nat
  /-- `ROWS_E`: configured rows of the encoder context. -/
  rowsE : Nat
  /-- `COLS_E`: configured columns of the encoder context. -/
  colsE : Nat
  /-- `ROWS_D`: configured rows of the decoder context. -/
  rowsD : Nat
  /-- `COLS_D`: configured columns of the decoder context. -/
  colsD : Nat
  /-- `BITS_CAP`: most bits a frame register can hold. -/
  bitsCap : Nat
  /-- `BYTES_CAP`: most bytes a wire-stream register can hold. -/
  bytesCap : Nat
  deriving DecidableEq, Repr

/-- The reference configuration REF of 00_scope.md R7. -/
def Config.ref : Config :=
  { runWidth := 8, sizeWidth := 16, rowsE := 2, colsE := 2, rowsD := 2, colsD := 2,
    bitsCap := 65535, bytesCap := 65535 }

end Sys2Proof
end

