-- ==== Sys2Proof/Machine/Params.lean ====
section
/-! DEFINITION. The constants derived from the parameters and the legality of a configuration (00_scope.md R5, R6; 10_state.md R27). -/

namespace Sys2Proof

/-- `RB = RUN_WIDTH / 8`: bytes in one record (00_scope.md R5). -/
def Config.recordBytes (p : Config) : Nat := p.runWidth / 8

/-- `HB = SIZE_WIDTH / 8`: bytes in the size field (00_scope.md R5). -/
def Config.headerBytes (p : Config) : Nat := p.sizeWidth / 8

/-- `MAXRUN = 2^(RUN_WIDTH - 1)`: the longest run one record carries (00_scope.md R5). -/
def Config.maxRun (p : Config) : Nat := 2 ^ (p.runWidth - 1)

/-- `ROWS_c` of a context (00_scope.md R5). -/
def Config.rows (p : Config) : Ctx → Nat
  | .enc => p.rowsE
  | .dec => p.rowsD

/-- `COLS_c` of a context (00_scope.md R5). -/
def Config.cols (p : Config) : Ctx → Nat
  | .enc => p.colsE
  | .dec => p.colsD

/-- The bit count fits the size field: `n < 2^SIZE_WIDTH` (43_rle_codec.md R127). -/
def Config.sizeFits (p : Config) (n : Nat) : Bool := decide (n < 2 ^ p.sizeWidth)

/-- A width is a positive multiple of 8 (R5, 90_conflicts.md C2) that its 32-bit control register
holds (10_state.md R27). -/
def Config.widthLegal (w : Nat) : Bool :=
  decide (0 < w) && decide (w % 8 = 0) && decide (w < 2 ^ 32)

/-- The configured frame of a context has dimensions of at most 32 bits (R5), fits a frame register
and has a bit count that fits the size field (R6). -/
def Config.frameLegal (p : Config) (c : Ctx) : Bool :=
  decide (p.rows c < 2 ^ 32) && decide (p.cols c < 2 ^ 32) &&
    decide (p.rows c * p.cols c ≤ p.bitsCap) && p.sizeFits (p.rows c * p.cols c)

/-- The legal configurations of 00_scope.md R5 and R6 (log 5). -/
def Config.legal (p : Config) : Bool :=
  Config.widthLegal p.runWidth && Config.widthLegal p.sizeWidth &&
    p.frameLegal .enc && p.frameLegal .dec &&
    decide (p.bitsCap < 2 ^ 32) && decide (p.bytesCap < 2 ^ 32)

end Sys2Proof
end

