-- ==== Sys2Proof/Machine/State.lean ====
section
/-! DEFINITION. The architectural state of SGC, its reset value, and the reasons a step can stop (10_state.md R20 to R33). -/

namespace Sys2Proof.Machine

/-- The four frame registers `F[0..3]` (10_state.md R20). -/
structure FrameFile where
  f0 : MatrixValue
  f1 : MatrixValue
  f2 : MatrixValue
  f3 : MatrixValue
  deriving DecidableEq, Repr

/-- The four wire-stream registers `W[0..3]` (10_state.md R22). -/
structure StreamFile where
  w0 : List Byte
  w1 : List Byte
  w2 : List Byte
  w3 : List Byte
  deriving DecidableEq, Repr

/-- A delta context (10_state.md R24). -/
structure DeltaContext where
  synced : Bool
  latest : MatrixValue
  deriving DecidableEq, Repr

/-- What the host does at the block's boundary: it presents a transaction or asserts reset between two
commands (60_exceptions.md R184, 70_reset_and_hazards.md R200; log 2, log 4). -/
inductive HostEvent where
  | command (t : Transaction)
  | reset
  deriving DecidableEq, Repr

/-- The state. `cfg` holds the parameters of the instance, which no step changes (10_state.md R32, log 1).
`input` and `responses` stand for the command port with the reset input and for the response port; they
are the model's own and no storage of the block (10_state.md R28, R29; log 2, log 3). The control
registers `CR[0..6]` are views of `cfg` and of the two synced flags (10_state.md R27,
`controlRegister` in Machine/Flags.lean). -/
structure State where
  cfg : Config
  frames : FrameFile
  streams : StreamFile
  enc : DeltaContext
  dec : DeltaContext
  input : List HostEvent
  responses : List Response
  deriving DecidableEq, Repr

/-- SGC has no fault: every command in every state has exactly one response and one successor state
(60_exceptions.md R174, 70_reset_and_hazards.md R211, 93_implementation_defined.md list 2). So this type
has no constructor (log 6). -/
inductive Fault where
  deriving DecidableEq, Repr

/-- The reasons for which the model gives no meaning. -/
inductive Refusal where
  /-- Raised by an arm of `exec` whose command has no meaning yet; no arm does so. Safe. -/
  | notModelled (mnemonic : String)
  /-- Raised by `step` on a state whose configuration is not legal: 00_scope.md R6, "The model refuses
  an illegal configuration (it gives it no meaning)". Safe. -/
  | illegalConfiguration
  deriving DecidableEq, Repr

/-- The frame registers after reset (10_state.md R33). -/
def FrameFile.reset : FrameFile :=
  { f0 := MatrixValue.zero 0 0, f1 := MatrixValue.zero 0 0,
    f2 := MatrixValue.zero 0 0, f3 := MatrixValue.zero 0 0 }

/-- The wire-stream registers after reset (10_state.md R33). -/
def StreamFile.reset : StreamFile :=
  { w0 := [], w1 := [], w2 := [], w3 := [] }

/-- A context after reset: Uninitialized, all-false baseline of the configured dimensions (10_state.md
R33, log 12). -/
def DeltaContext.reset (p : Config) (c : Ctx) : DeltaContext :=
  { synced := false, latest := MatrixValue.zero (p.rows c) (p.cols c) }

/-- The block with parameters `p` right after reset, before the host has presented anything (10_state.md R33). -/
def State.resetOf (p : Config) : State :=
  { cfg := p
    frames := FrameFile.reset
    streams := StreamFile.reset
    enc := DeltaContext.reset p .enc
    dec := DeltaContext.reset p .dec
    input := []
    responses := [] }

/-- The reference instance (00_scope.md R7) right after reset (10_state.md R33; the choice of the
instance is log 1). -/
def State.reset : State := State.resetOf Config.ref

end Sys2Proof.Machine
end

