-- ==== Sys2Proof/Machine/Ops.lean ====
section
/-! DEFINITION. The register files, the contexts, the response port, the rejection of a command and the capacity checks (10_state.md R20 to R26, 60_exceptions.md R172, R173). -/

namespace Sys2Proof.Machine

/-- The outcome of a command or a step. -/
abbrev Result := Host.Outcome State Fault Refusal

/-! ### Register files -/

/-- Read of a frame register. -/
def FrameFile.get (f : FrameFile) : FReg → MatrixValue
  | .f0 => f.f0
  | .f1 => f.f1
  | .f2 => f.f2
  | .f3 => f.f3

/-- Write of a frame register. -/
def FrameFile.set (f : FrameFile) (r : FReg) (m : MatrixValue) : FrameFile :=
  match r with
  | .f0 => { f with f0 := m }
  | .f1 => { f with f1 := m }
  | .f2 => { f with f2 := m }
  | .f3 => { f with f3 := m }

/-- Read of a wire-stream register. -/
def StreamFile.get (f : StreamFile) : WReg → List Byte
  | .w0 => f.w0
  | .w1 => f.w1
  | .w2 => f.w2
  | .w3 => f.w3

/-- Write of a wire-stream register. -/
def StreamFile.set (f : StreamFile) (r : WReg) (b : List Byte) : StreamFile :=
  match r with
  | .w0 => { f with w0 := b }
  | .w1 => { f with w1 := b }
  | .w2 => { f with w2 := b }
  | .w3 => { f with w3 := b }

/-- `F[i]` (00_scope.md R12). -/
def State.frame (s : State) (r : FReg) : MatrixValue := s.frames.get r

/-- `F[i] <- m`, a copy (00_scope.md R12, 10_state.md R26). -/
def State.setFrame (s : State) (r : FReg) (m : MatrixValue) : State :=
  { s with frames := s.frames.set r m }

/-- `W[i]` (00_scope.md R12). -/
def State.stream (s : State) (r : WReg) : List Byte := s.streams.get r

/-- `W[i] <- s` (00_scope.md R12). -/
def State.setStream (s : State) (r : WReg) (b : List Byte) : State :=
  { s with streams := s.streams.set r b }

/-- `ctx[c]` (10_state.md R24). -/
def State.context (s : State) : Ctx → DeltaContext
  | .enc => s.enc
  | .dec => s.dec

/-- A write of both fields of a context. -/
def State.setContext (s : State) (c : Ctx) (x : DeltaContext) : State :=
  match c with
  | .enc => { s with enc := x }
  | .dec => { s with dec := x }

/-- `ctx[c].latest <- m` (00_scope.md R12), a copy (10_state.md R26). -/
def State.setLatest (s : State) (c : Ctx) (m : MatrixValue) : State :=
  s.setContext c { s.context c with latest := m }

/-! ### Responses -/

/-- The block gives one response on the response port (60_exceptions.md R172). -/
def State.respond (s : State) (r : Response) : State :=
  { s with responses := s.responses ++ [r] }

/-- `ret v` (00_scope.md R12): the command ends with response `(OK, v)`. -/
def answer (v : Nat) (s : State) : Result :=
  .next (s.respond (Response.ok v))

/-- `raise E(INFO)` (00_scope.md R12), the whole of what an error does: the response carries the
status and the info code, and nothing else changes (60_exceptions.md R172, R173, R179). There is no
return from it: the next command runs as if this one had not been issued (R174, R180). -/
def reject (i : Info) (s : State) : Result :=
  .next (s.respond (Response.error i))

/-- A command goes on with the value a checked helper returns, or is rejected in the state it began in
with the error the helper raised (00_scope.md R12). -/
def orReject {α : Type} (x : Except Info α) (s : State) (k : α → Result) : Result :=
  match x with
  | .ok a => k a
  | .error i => reject i s

/-- The info code of a transaction that is no legal command (60_exceptions.md R171). -/
def illegalInfo : DecodeError → Info
  | .badOpcode => .badOpcode
  | .reservedBits => .reservedBits
  | .badLength => .badLength
  | .badCr => .badCr

/-! ### Capacities (10_state.md R23) -/

/-- `n` bits fit a frame register. -/
def State.bitsFit (s : State) (n : Nat) : Bool := decide (n ≤ s.cfg.bitsCap)

/-- `n` bytes fit a wire-stream register. -/
def State.bytesFit (s : State) (n : Nat) : Bool := decide (n ≤ s.cfg.bytesCap)

end Sys2Proof.Machine
end

