-- ==== Sys2Proof/Machine/Flags.lean ====
section
/-! DEFINITION. SGC's only flags, the two synced bits, and the control registers that show them (10_state.md R25, R27, R30). No command computes a carry, zero or overflow flag (R30). -/

namespace Sys2Proof.Machine

/-- Context `c` is Synced (10_state.md R25). -/
def State.synced (s : State) (c : Ctx) : Bool := (s.context c).synced

/-- DFINIT's write of a context: `latest <- m`, `synced <- 1`, from either state (10_state.md R25,
44_delta_frame.md R141). -/
def State.initialise (s : State) (c : Ctx) (m : MatrixValue) : State :=
  s.setContext c { synced := true, latest := m }

/-- `CR[6]` SYNC: bit 0 ES, bit 1 DS, bits 31 to 2 zero (10_state.md R27, 45_stream_port_control.md R164). -/
def State.syncRegister (s : State) : Nat :=
  s.enc.synced.toNat + 2 * s.dec.synced.toNat

/-- `CR[k]` for k in 0 to 6; 7 to 255 is no control register (10_state.md R27). -/
def State.controlRegister (s : State) (k : Nat) : Option Nat :=
  match k with
  | 0 => some s.cfg.runWidth
  | 1 => some s.cfg.sizeWidth
  | 2 => some s.cfg.rowsE
  | 3 => some s.cfg.colsE
  | 4 => some s.cfg.rowsD
  | 5 => some s.cfg.colsD
  | 6 => some s.syncRegister
  | _ => none

end Sys2Proof.Machine
end

