-- ==== Sys2Proof/Machine/Operands.lean ====
section
/-! DEFINITION. The operand forms: operand words as naturals, the immediate, window descriptors and the access through a window (30_encoding.md R61, R62; 42_window_export.md R110, R111). -/

namespace Sys2Proof.Machine

/-- An operand word is used as a natural number, 0 to 2^32 - 1 (30_encoding.md R62, 00_scope.md R8). -/
abbrev operand (w : Word) : Nat := w.toNat

/-- A bit as a response value: 0 or 1 (60_exceptions.md R172). -/
abbrev bitOperand (b : Bool) : Nat := b.toNat

/-- A window descriptor (42_window_export.md R110). -/
structure Window where
  startRow : Nat
  startCol : Nat
  subRows : Nat
  subCols : Nat
  deriving DecidableEq, Repr

/-- The window named by operand words 1 to 4 (R110). -/
def windowOf (startRow startCol subRows subCols : Word) : Window :=
  { startRow := operand startRow, startCol := operand startCol,
    subRows := operand subRows, subCols := operand subCols }

/-- Window coordinates lie in the window's extent (R111). -/
def Window.inExtent (n : Window) (row col : Nat) : Bool :=
  decide (row < n.subRows) && decide (col < n.subCols)

/-- `WinBitAt` of 42_window_export.md R111: the window check first, then the matrix check on the
translated position; the sums are exact. -/
def Window.bitAt (n : Window) (m : MatrixValue) (row col : Nat) : Except Info Bool :=
  if n.inExtent row col then m.bitAt (n.startRow + row) (n.startCol + col) else .error .oobView

/-- `WinWithBit` of 42_window_export.md R111. -/
def Window.withBit (n : Window) (m : MatrixValue) (row col : Nat) (v : Bool) :
    Except Info MatrixValue :=
  if n.inExtent row col then m.withBit (n.startRow + row) (n.startCol + col) v
  else .error .oobView

/-- The cells of a window, `sub_rows × sub_cols` (42_window_export.md R114). -/
def Window.cells (n : Window) : Nat := n.subRows * n.subCols

/-- The part of the row-major scan of 42_window_export.md R114 that visits `count` cells from linear
position `k` on; position k is row `k div sub_cols`, column `k mod sub_cols` of the window (log 10).
It ends at the first cell outside the matrix. -/
def Window.scanFrom (n : Window) (m : MatrixValue) : Nat → Nat → Except Info (List Bool)
  | 0, _ => .ok []
  | count + 1, k =>
    match n.bitAt m (k / n.subCols) (k % n.subCols) with
    | .error i => .error i
    | .ok b =>
      match n.scanFrom m count (k + 1) with
      | .error i => .error i
      | .ok bs => .ok (b :: bs)

/-- The row-major scan of a whole window (42_window_export.md R114). -/
def Window.scan (n : Window) (m : MatrixValue) : Except Info (List Bool) :=
  n.scanFrom m n.cells 0

end Sys2Proof.Machine
end

