-- ==== Sys2Proof/Machine/RunLength.lean ====
section
/-! DEFINITION. The run-length codec's two pure functions and the encoder's streaming form (43_rle_codec.md R120 to R132). -/

namespace Sys2Proof.Machine

/-- The length field of a record run of `len` bits, `1 ≤ len ≤ MAXRUN` (another `len`: log 16): the
maximum is stored as 0 (43_rle_codec.md R123). -/
def lengthField (maxRun len : Nat) : Nat := len % maxRun

/-- The run length a length field stands for (43_rle_codec.md R123). -/
def runLengthOf (maxRun field : Nat) : Nat := if field = 0 then maxRun else field

/-- A run: its bit value and its length. -/
structure Run where
  value : Bool
  length : Nat
  deriving DecidableEq, Repr

/-- The record of a record run: `v × MAXRUN + f` (43_rle_codec.md R122). -/
def recordOf (maxRun : Nat) (r : Run) : Nat :=
  r.value.toNat * maxRun + lengthField maxRun r.length

/-- The record run of a record: the value is its most significant bit, the length field its other
bits (43_rle_codec.md R122, R129). -/
def runOfRecord (maxRun r : Nat) : Run :=
  { value := decide (r / maxRun % 2 = 1), length := runLengthOf maxRun (r % maxRun) }

/-- The maximal runs of a bit sequence (43_rle_codec.md R124). -/
def maximalRuns : List Bool → List Run
  | [] => []
  | b :: bs =>
    match maximalRuns bs with
    | [] => [{ value := b, length := 1 }]
    | r :: rs =>
      if b = r.value then { r with length := r.length + 1 } :: rs
      else { value := b, length := 1 } :: r :: rs

/-- The record runs a maximal run produces: `L div MAXRUN` full ones, then the rest if there is one
(43_rle_codec.md R124). -/
def splitRun (maxRun : Nat) (r : Run) : List Run :=
  List.replicate (r.length / maxRun) { r with length := maxRun } ++
    (if r.length % maxRun = 0 then [] else [{ r with length := r.length % maxRun }])

/-- The record runs of a bit sequence (43_rle_codec.md R124). -/
def recordRuns (maxRun : Nat) (b : List Bool) : List Run :=
  (maximalRuns b).flatMap (splitRun maxRun)

/-- The bytes of one record, `LE(RB, r)` (43_rle_codec.md R122). -/
def recordBytes (p : Config) (r : Run) : List Byte :=
  leBytes p.recordBytes (recordOf p.maxRun r)

/-- `Records(b)` of 43_rle_codec.md R124. -/
def records (p : Config) (b : List Bool) : List Byte :=
  (recordRuns p.maxRun b).flatMap (recordBytes p)

/-- `RleEncode` of 43_rle_codec.md R124, for `len(b) < 2^SIZE_WIDTH` (a longer `b`: log 16); of the empty
sequence it is the size field alone (R126). -/
def rleEncode (p : Config) (b : List Bool) : List Byte :=
  leBytes p.headerBytes b.length ++ records p b

/-! ### The streaming form of the encoder (43_rle_codec.md R125) -/

/-- The registers of the streaming encoder: the current bit value, the accumulated count, and the
bytes sent so far (43_rle_codec.md R125). -/
structure Encoder where
  cur : Bool
  count : Nat
  out : List Byte
  deriving DecidableEq, Repr

/-- Flush of the accumulated run, if it has at least one bit (43_rle_codec.md R125, 90_conflicts.md C5). -/
def Encoder.flush (p : Config) (e : Encoder) : Encoder :=
  if 0 < e.count then
    { e with count := 0, out := e.out ++ recordBytes p { value := e.cur, length := e.count } }
  else e

/-- One input bit of the streaming loop (43_rle_codec.md R125). -/
def Encoder.feed (p : Config) (e : Encoder) (b : Bool) : Encoder :=
  let e1 : Encoder := if b = e.cur then e else { Encoder.flush p e with cur := b, count := 0 }
  let e2 : Encoder := { e1 with count := e1.count + 1 }
  if e2.count = p.maxRun then Encoder.flush p e2 else e2

/-- The loop of 43_rle_codec.md R125; on the empty sequence it is not entered (R126). -/
def streamRecords (p : Config) : List Bool → List Byte
  | [] => []
  | b :: bs =>
    (Encoder.flush p ((b :: bs).foldl (Encoder.feed p) { cur := b, count := 0, out := [] })).out

/-! ### Decoding (43_rle_codec.md R129) -/

/-- The record runs of the `k` records that follow the size field (43_rle_codec.md R129). -/
def decodedRuns (p : Config) (w : List Byte) (k : Nat) : List Run :=
  (List.range k).map fun j =>
    runOfRecord p.maxRun (memRead w (p.headerBytes + j * p.recordBytes) p.recordBytes)

/-- The sum of the run lengths (43_rle_codec.md R129). -/
def totalLength (rs : List Run) : Nat := (rs.map Run.length).sum

/-- The bits of a sequence of runs (43_rle_codec.md R129). -/
def expandRuns (rs : List Run) : List Bool :=
  rs.flatMap fun r => List.replicate r.length r.value

/-- `RleDecode` of 43_rle_codec.md R129, its three checks in their order (R130, R131). -/
def rleDecode (p : Config) (w : List Byte) : Except Info (List Bool) :=
  if w.length < p.headerBytes then .error .shortHeader
  else if (w.length - p.headerBytes) % p.recordBytes ≠ 0 then .error .partialRecord
  else
    let runs := decodedRuns p w ((w.length - p.headerBytes) / p.recordBytes)
    if totalLength runs ≠ memRead w 0 p.headerBytes then .error .lengthMismatch
    else .ok (expandRuns runs)

end Sys2Proof.Machine
end

