-- ==== Sys2Proof/Machine/XorPipeline.lean ====
section
/-! DEFINITION. The bit-stream XOR pipeline: `XorBits`, FXOR and FXORA (41_xor_pipeline.md R100 to R102). -/

namespace Sys2Proof.Machine

/-- `XorBits` of 41_xor_pipeline.md R100. It is used on sequences of equal lengths only; on unequal
ones it stops with the shorter (log 7). -/
def xorBits (a b : List Bool) : List Bool := List.zipWith xor a b

/-- The XOR of two matrix values, with the dimensions of the first (41_xor_pipeline.md R101, R102). -/
def MatrixValue.xor (a b : MatrixValue) : MatrixValue :=
  { rows := a.rows, cols := a.cols, bits := xorBits a.bits b.bits }

/-- FXOR (41_xor_pipeline.md R101): both sources are read before the destination is written. -/
def execFxor (fd fa fb : FReg) (s : State) : Result :=
  if (s.frame fa).sameDims (s.frame fb) then
    answer 0 (s.setFrame fd ((s.frame fa).xor (s.frame fb)))
  else reject .operands s

/-- FXORA (41_xor_pipeline.md R102): the receiver is `F[d]`. -/
def execFxora (fd fa : FReg) (s : State) : Result :=
  if (s.frame fd).sameDims (s.frame fa) then
    answer 0 (s.setFrame fd ((s.frame fd).xor (s.frame fa)))
  else reject .operands s

end Sys2Proof.Machine
end

