-- ==== Sys2Proof/Machine/DeltaFrame.lean ====
section
/-! DEFINITION. The delta-frame differencer commands DFINIT DFENC DFDEC (44_delta_frame.md R141 to R143). -/

namespace Sys2Proof.Machine

/-- A matrix value has the configured dimensions of context `c`, compared one by one
(44_delta_frame.md R141). -/
def MatrixValue.fitsContext (m : MatrixValue) (p : Config) (c : Ctx) : Bool :=
  decide (m.rows = p.rows c) && decide (m.cols = p.cols c)

/-- DFINIT (44_delta_frame.md R141): valid from any state of the context. -/
def execDfinit (c : Ctx) (fa : FReg) (s : State) : Result :=
  if (s.frame fa).fitsContext s.cfg c then answer 0 (s.initialise c (s.frame fa))
  else reject .config s

/-- The stream DFENC produces: the encoded delta between the encoder baseline and a frame
(44_delta_frame.md R142). -/
def deltaStream (s : State) (m : MatrixValue) : List Byte :=
  rleEncode s.cfg (xorBits s.enc.latest.bits m.bits)

/-- DFENC (44_delta_frame.md R142): state, then dimensions, then capacity. -/
def execDfenc (wd : WReg) (fa : FReg) (s : State) : Result :=
  if s.synced .enc then
    if (s.frame fa).fitsContext s.cfg .enc then
      if s.bytesFit (deltaStream s (s.frame fa)).length then
        answer 0 ((s.setLatest .enc (s.frame fa)).setStream wd (deltaStream s (s.frame fa)))
      else reject .wCap s
    else reject .config s
  else reject .notSynced s

/-- The frame DFDEC reconstructs from its baseline and a delta (44_delta_frame.md R143). -/
def applyDelta (l : MatrixValue) (x : List Bool) : MatrixValue :=
  { l with bits := xorBits l.bits x }

/-- DFDEC (44_delta_frame.md R143): state, then the form of the stream, then the bit count. -/
def execDfdec (fd : FReg) (wa : WReg) (s : State) : Result :=
  if s.synced .dec then
    orReject (rleDecode s.cfg (s.stream wa)) s fun x =>
      if x.length = s.dec.latest.rows * s.dec.latest.cols then
        answer 0 ((s.setLatest .dec (applyDelta s.dec.latest x)).setFrame fd
          (applyDelta s.dec.latest x))
      else reject .frameSize s
  else reject .notSynced s

end Sys2Proof.Machine
end

