-- ==== Sys2Proof/Machine/FrameStore.lean ====
section
/-! DEFINITION. The frame store commands FNEW FGET FSET FEQ FDOWN FROWS FCOLS (40_frame_store.md R81 to R87). -/

namespace Sys2Proof.Machine

/-- FNEW (40_frame_store.md R81). -/
def execFnew (fd : FReg) (rows cols : Word) (s : State) : Result :=
  if s.bitsFit (operand rows * operand cols) then
    answer 0 (s.setFrame fd (MatrixValue.zero (operand rows) (operand cols)))
  else reject .fCap s

/-- FGET (40_frame_store.md R82). -/
def execFget (fa : FReg) (row col : Word) (s : State) : Result :=
  orReject ((s.frame fa).bitAt (operand row) (operand col)) s fun b => answer (bitOperand b) s

/-- FSET (40_frame_store.md R83). -/
def execFset (fd : FReg) (v : Bool) (row col : Word) (s : State) : Result :=
  orReject ((s.frame fd).withBit (operand row) (operand col) v) s fun m =>
    answer 0 (s.setFrame fd m)

/-- FEQ (40_frame_store.md R84). -/
def execFeq (fa fb : FReg) (s : State) : Result :=
  answer (bitOperand ((s.frame fa).equals (s.frame fb))) s

/-- FDOWN (40_frame_store.md R85). -/
def execFdown (fd : FReg) (hScale vScale : Word) (s : State) : Result :=
  if operand hScale = 0 ∨ operand vScale = 0 then reject .zeroScale s
  else answer 0 (s.setFrame fd ((s.frame fd).downsample (operand hScale) (operand vScale)))

/-- FROWS (40_frame_store.md R86). -/
def execFrows (fa : FReg) (s : State) : Result :=
  answer (s.frame fa).rows s

/-- FCOLS (40_frame_store.md R87). -/
def execFcols (fa : FReg) (s : State) : Result :=
  answer (s.frame fa).cols s

end Sys2Proof.Machine
end

