-- ==== Sys2Proof/Machine/RleCodec.lean ====
section
/-! DEFINITION. The run-length codec commands RLEENC and RLEDEC (43_rle_codec.md R128, R133). -/

namespace Sys2Proof.Machine

/-- RLEENC (43_rle_codec.md R128): the size field check first, then the capacity. -/
def execRleenc (wd : WReg) (fa : FReg) (s : State) : Result :=
  if s.cfg.sizeFits (s.frame fa).bits.length then
    if s.bytesFit (rleEncode s.cfg (s.frame fa).bits).length then
      answer 0 (s.setStream wd (rleEncode s.cfg (s.frame fa).bits))
    else reject .wCap s
  else reject .sizeField s

/-- The matrix value of a decoded bit sequence: one row (10_state.md R21). -/
def rowOf (x : List Bool) : MatrixValue :=
  { rows := 1, cols := x.length, bits := x }

/-- RLEDEC (43_rle_codec.md R133). -/
def execRledec (fd : FReg) (wa : WReg) (s : State) : Result :=
  orReject (rleDecode s.cfg (s.stream wa)) s fun x =>
    if s.bitsFit x.length then answer 0 (s.setFrame fd (rowOf x)) else reject .fCap s

end Sys2Proof.Machine
end

