-- ==== Sys2Proof/Machine/StreamPort.lean ====
section
/-! DEFINITION. The stream port and control commands WCLR WPUSH WLEN WGET RDCR (45_stream_port_control.md R160 to R164). -/

namespace Sys2Proof.Machine

/-- WCLR (45_stream_port_control.md R160). -/
def execWclr (wd : WReg) (s : State) : Result :=
  answer 0 (s.setStream wd [])

/-- WPUSH (45_stream_port_control.md R161). -/
def execWpush (wd : WReg) (byte : Byte) (s : State) : Result :=
  if s.bytesFit ((s.stream wd).length + 1) then answer 0 (s.setStream wd (s.stream wd ++ [byte]))
  else reject .wCap s

/-- WLEN (45_stream_port_control.md R162). -/
def execWlen (wa : WReg) (s : State) : Result :=
  answer (s.stream wa).length s

/-- WGET (45_stream_port_control.md R163): the byte is zero-extended. -/
def execWget (wa : WReg) (idx : Word) (s : State) : Result :=
  match (s.stream wa)[operand idx]? with
  | some b => answer b.toNat s
  | none => reject .oobStream s

/-- RDCR (45_stream_port_control.md R164). Decoding lets only the indices 0 to 6 through
(30_encoding.md R65 step 4); for the others the command itself raises the same error (log 13). -/
def execRdcr (k : Byte) (s : State) : Result :=
  match s.controlRegister k.toNat with
  | some v => answer v s
  | none => reject .badCr s

end Sys2Proof.Machine
end

