-- ==== Sys2Proof/Machine/Window.lean ====
section
/-! DEFINITION. The window and export commands VGET VSET VEXP (42_window_export.md R112 to R114). -/

namespace Sys2Proof.Machine

/-- VGET (42_window_export.md R112). -/
def execVget (fa : FReg) (startRow startCol subRows subCols row col : Word) (s : State) : Result :=
  orReject ((windowOf startRow startCol subRows subCols).bitAt (s.frame fa) (operand row) (operand col))
    s fun b => answer (bitOperand b) s

/-- VSET (42_window_export.md R113). -/
def execVset (fd : FReg) (v : Bool) (startRow startCol subRows subCols row col : Word) (s : State) :
    Result :=
  orReject
    ((windowOf startRow startCol subRows subCols).withBit (s.frame fd) (operand row) (operand col) v)
    s fun m => answer 0 (s.setFrame fd m)

/-- VEXP (42_window_export.md R114): the capacity check first, then the scan. -/
def execVexp (wd : WReg) (fa : FReg) (startRow startCol subRows subCols : Word) (s : State) : Result :=
  if s.bytesFit (packedLength (windowOf startRow startCol subRows subCols).cells) then
    orReject ((windowOf startRow startCol subRows subCols).scan (s.frame fa)) s fun bits =>
      answer 0 (s.setStream wd (packBits bits))
  else reject .wCap s

end Sys2Proof.Machine
end

