-- ==== Sys2Proof/Machine/Dispatch.lean ====
section
/-! DEFINITION. One arm per command (30_encoding.md R64). -/

namespace Sys2Proof.Machine

def exec (i : Instr) (s : State) : Host.Outcome State Fault Refusal :=
  match i with
  | .fnew fd rows cols => Sys2Proof.Machine.execFnew fd rows cols s
  | .fget fa row col => Sys2Proof.Machine.execFget fa row col s
  | .fset fd v row col => Sys2Proof.Machine.execFset fd v row col s
  | .feq fa fb => Sys2Proof.Machine.execFeq fa fb s
  | .fdown fd hScale vScale => Sys2Proof.Machine.execFdown fd hScale vScale s
  | .frows fa => Sys2Proof.Machine.execFrows fa s
  | .fcols fa => Sys2Proof.Machine.execFcols fa s
  | .fxor fd fa fb => Sys2Proof.Machine.execFxor fd fa fb s
  | .fxora fd fa => Sys2Proof.Machine.execFxora fd fa s
  | .vget fa sr sc nr nc row col => Sys2Proof.Machine.execVget fa sr sc nr nc row col s
  | .vset fd v sr sc nr nc row col => Sys2Proof.Machine.execVset fd v sr sc nr nc row col s
  | .vexp wd fa sr sc nr nc => Sys2Proof.Machine.execVexp wd fa sr sc nr nc s
  | .rleenc wd fa => Sys2Proof.Machine.execRleenc wd fa s
  | .rledec fd wa => Sys2Proof.Machine.execRledec fd wa s
  | .dfinit c fa => Sys2Proof.Machine.execDfinit c fa s
  | .dfenc wd fa => Sys2Proof.Machine.execDfenc wd fa s
  | .dfdec fd wa => Sys2Proof.Machine.execDfdec fd wa s
  | .wclr wd => Sys2Proof.Machine.execWclr wd s
  | .wpush wd byte => Sys2Proof.Machine.execWpush wd byte s
  | .wlen wa => Sys2Proof.Machine.execWlen wa s
  | .wget wa idx => Sys2Proof.Machine.execWget wa idx s
  | .rdcr k => Sys2Proof.Machine.execRdcr k s

end Sys2Proof.Machine
end

