-- ==== Sys2Proof/Machine/Port.lean ====
section
/-! DEFINITION. The command port and the reset input: what the host presents next, the rejection of an illegal transaction, and reset (30_encoding.md R60, R65; 70_reset_and_hazards.md R200). -/

namespace Sys2Proof.Machine

/-- What the host presents next, with the input it leaves; none when the host is silent. -/
def takeEvent (s : State) : Option (HostEvent × State) :=
  match s.input with
  | [] => none
  | e :: rest => some (e, { s with input := rest })

/-- An illegal transaction ends with IllegalCommand and no change of state (30_encoding.md R65). -/
def rejectIllegal (e : DecodeError) (s : State) : Result :=
  reject (illegalInfo e) s

/-- Reset asserted between two commands: every register and context at its reset value, the parameters
untouched (70_reset_and_hazards.md R200); what the host still has to present and the responses it has
had are the host's and stay (log 4). -/
def State.assertReset (s : State) : State :=
  { State.resetOf s.cfg with input := s.input, responses := s.responses }

end Sys2Proof.Machine
end

