-- ==== Sys2Proof/Machine/Step.lean ====
section
/-! DEFINITION. One step of the block: what the host presents next is executed (20_memory.md R47, R50). -/

namespace Sys2Proof.Machine

/-- One step (20_memory.md R50). An illegal configuration has no meaning (00_scope.md R6, log 5).
When the host presents nothing, the block waits and nothing changes (70_reset_and_hazards.md R200,
60_exceptions.md R178; log 2). A transaction is decoded and executed, or rejected by decoding
(30_encoding.md R65). Reset is taken between two commands (R200). -/
def step (s : State) : Host.Outcome State Fault Refusal :=
  if s.cfg.legal then
    match takeEvent s with
    | none => .next s
    | some (.reset, s') => .next s'.assertReset
    | some (.command t, s') =>
      match decode t with
      | .ok i => exec i s'
      | .error e => rejectIllegal e s'
  else .refused .illegalConfiguration

/-- `s` with the host about to present, before anything else it has to present, the transaction whose
bits are `w` (log 2, log 8). -/
def State.withFetchWord (s : State) (nbits w : Nat) : State :=
  { s with input := .command (tableTransaction nbits w) :: s.input }

end Sys2Proof.Machine
end

