-- ==== Sys2Proof/Safety.lean ====
section
/-! DEFINITION. The terms claims are stated in: well-formed states, what a command leaves unchanged, how a response reads, which errors a command can raise, and the delivery of frames from an encoder to a decoder. -/

namespace Sys2Proof.Machine

/-! ### Well-formed states -/

/-- A matrix value whose bit count is `rows × cols` (00_scope.md R11). -/
abbrev MatrixValue.wf (m : MatrixValue) : Prop := m.bits.length = m.rows * m.cols

/-- A matrix value that a frame register can hold (10_state.md R20). -/
abbrev MatrixValue.fits (p : Config) (m : MatrixValue) : Prop :=
  m.wf ∧ m.rows < 2 ^ 32 ∧ m.cols < 2 ^ 32 ∧ m.rows * m.cols ≤ p.bitsCap

/-- A byte sequence that a wire-stream register can hold (10_state.md R22). -/
abbrev StreamFits (p : Config) (b : List Byte) : Prop := b.length ≤ p.bytesCap

/-- A context whose baseline has the configured dimensions (10_state.md R24). -/
abbrev DeltaContext.wf (p : Config) (c : Ctx) (x : DeltaContext) : Prop :=
  x.latest.wf ∧ x.latest.rows = p.rows c ∧ x.latest.cols = p.cols c

/-- The invariant of the state: a legal configuration (00_scope.md R6), every frame register within
R20, every wire-stream register within R22, both contexts within R24. -/
abbrev State.wf (s : State) : Prop :=
  s.cfg.legal = true ∧
    (s.frames.f0.fits s.cfg ∧ s.frames.f1.fits s.cfg ∧ s.frames.f2.fits s.cfg ∧
      s.frames.f3.fits s.cfg) ∧
    (StreamFits s.cfg s.streams.w0 ∧ StreamFits s.cfg s.streams.w1 ∧
      StreamFits s.cfg s.streams.w2 ∧ StreamFits s.cfg s.streams.w3) ∧
    s.enc.wf s.cfg .enc ∧ s.dec.wf s.cfg .dec

/-! ### Frames of commands -/

/-- Nothing of the block differs between `s` and `t`: every register, both contexts, the parameters,
and what the host still has to present. -/
def SameBlock (s t : State) : Prop :=
  t.cfg = s.cfg ∧ t.frames = s.frames ∧ t.streams = s.streams ∧ t.enc = s.enc ∧ t.dec = s.dec ∧
    t.input = s.input

/-- Nothing of the block but frame register `d` differs between `s` and `t`. -/
def OnlyFrame (d : FReg) (s t : State) : Prop :=
  t.cfg = s.cfg ∧ (∀ r, r ≠ d → t.frame r = s.frame r) ∧ t.streams = s.streams ∧ t.enc = s.enc ∧
    t.dec = s.dec ∧ t.input = s.input

/-- Nothing of the block but wire-stream register `d` differs between `s` and `t`. -/
def OnlyStream (d : WReg) (s t : State) : Prop :=
  t.cfg = s.cfg ∧ t.frames = s.frames ∧ (∀ r, r ≠ d → t.stream r = s.stream r) ∧ t.enc = s.enc ∧
    t.dec = s.dec ∧ t.input = s.input

/-- Nothing of the block but context `c` differs between `s` and `t`. -/
def OnlyContext (c : Ctx) (s t : State) : Prop :=
  t.cfg = s.cfg ∧ t.frames = s.frames ∧ t.streams = s.streams ∧
    (∀ c', c' ≠ c → t.context c' = s.context c') ∧ t.input = s.input

/-- From `s` to `t` the block gave one response, status OK (code 0) and the value `v`
(60_exceptions.md R172). -/
def Answered (s t : State) (v : Nat) : Prop :=
  ∃ w : Word, w.toNat = v ∧ t.responses = s.responses ++ [{ status := 0#3, value := w }]

/-- `s` after a rejection with the status code and info code given: one response, nothing else
(60_exceptions.md R172, R173). -/
def rejectedWith (s : State) (status : BitVec 3) (info : Word) : State :=
  { s with responses := s.responses ++ [{ status := status, value := info }] }

/-! ### Encodings -/

/-- A command word as the sum of its fields at the positions of 30_encoding.md R61. -/
def commandWord (op rd ra rb v c imm8 : Nat) : Word :=
  BitVec.ofNat 32
    (op + rd * 2 ^ 8 + ra * 2 ^ 10 + rb * 2 ^ 12 + v * 2 ^ 14 + c * 2 ^ 15 + imm8 * 2 ^ 16)

/-- The index of a frame register (10_state.md R20). -/
def frameIndex : FReg → Nat
  | .f0 => 0
  | .f1 => 1
  | .f2 => 2
  | .f3 => 3

/-- The index of a wire-stream register (10_state.md R22). -/
def streamIndex : WReg → Nat
  | .w0 => 0
  | .w1 => 1
  | .w2 => 2
  | .w3 => 3

/-- The number of a context (10_state.md R24). -/
def contextIndex : Ctx → Nat
  | .enc => 0
  | .dec => 1

/-! ### Errors per command -/

/-- The errors a command can raise at execution, in priority order (60_exceptions.md R176). -/
def errorsOf : Instr → List Info
  | .fnew _ _ _ => [.fCap]
  | .fget _ _ _ => [.oobMatrix]
  | .fset _ _ _ _ => [.oobMatrix]
  | .feq _ _ => []
  | .fdown _ _ _ => [.zeroScale]
  | .frows _ => []
  | .fcols _ => []
  | .fxor _ _ _ => [.operands]
  | .fxora _ _ => [.operands]
  | .vget _ _ _ _ _ _ _ => [.oobView, .oobMatrix]
  | .vset _ _ _ _ _ _ _ _ => [.oobView, .oobMatrix]
  | .vexp _ _ _ _ _ _ => [.wCap, .oobMatrix]
  | .rleenc _ _ => [.sizeField, .wCap]
  | .rledec _ _ => [.shortHeader, .partialRecord, .lengthMismatch, .fCap]
  | .dfinit _ _ => [.config]
  | .dfenc _ _ => [.notSynced, .config, .wCap]
  | .dfdec _ _ => [.notSynced, .shortHeader, .partialRecord, .lengthMismatch, .frameSize]
  | .wclr _ => []
  | .wpush _ _ => [.wCap]
  | .wlen _ => []
  | .wget _ _ => [.oobStream]
  | .rdcr _ => []

/-- The commands that read and change nothing (20_memory.md R48). -/
def isRead : Instr → Bool
  | .fget _ _ _ => true
  | .feq _ _ => true
  | .frows _ => true
  | .fcols _ => true
  | .vget _ _ _ _ _ _ _ => true
  | .wlen _ => true
  | .wget _ _ => true
  | .rdcr _ => true
  | .fnew _ _ _ => false
  | .fset _ _ _ _ => false
  | .fdown _ _ _ => false
  | .fxor _ _ _ => false
  | .fxora _ _ => false
  | .vset _ _ _ _ _ _ _ _ => false
  | .vexp _ _ _ _ _ _ => false
  | .rleenc _ _ => false
  | .rledec _ _ => false
  | .dfinit _ _ => false
  | .dfenc _ _ => false
  | .dfdec _ _ => false
  | .wclr _ => false
  | .wpush _ _ => false

/-- The frame register a command names as destination (30_encoding.md R64). -/
def frameDestination : Instr → Option FReg
  | .fnew fd _ _ => some fd
  | .fset fd _ _ _ => some fd
  | .fdown fd _ _ => some fd
  | .fxor fd _ _ => some fd
  | .fxora fd _ => some fd
  | .vset fd _ _ _ _ _ _ _ => some fd
  | .rledec fd _ => some fd
  | .dfdec fd _ => some fd
  | .fget _ _ _ => none
  | .feq _ _ => none
  | .frows _ => none
  | .fcols _ => none
  | .vget _ _ _ _ _ _ _ => none
  | .vexp _ _ _ _ _ _ => none
  | .rleenc _ _ => none
  | .dfinit _ _ => none
  | .dfenc _ _ => none
  | .wclr _ => none
  | .wpush _ _ => none
  | .wlen _ => none
  | .wget _ _ => none
  | .rdcr _ => none

/-- The wire-stream register a command names as destination (30_encoding.md R64). -/
def streamDestination : Instr → Option WReg
  | .vexp wd _ _ _ _ _ => some wd
  | .rleenc wd _ => some wd
  | .dfenc wd _ => some wd
  | .wclr wd => some wd
  | .wpush wd _ => some wd
  | .fnew _ _ _ => none
  | .fget _ _ _ => none
  | .fset _ _ _ _ => none
  | .feq _ _ => none
  | .fdown _ _ _ => none
  | .frows _ => none
  | .fcols _ => none
  | .fxor _ _ _ => none
  | .fxora _ _ => none
  | .vget _ _ _ _ _ _ _ => none
  | .vset _ _ _ _ _ _ _ _ => none
  | .rledec _ _ => none
  | .dfinit _ _ => none
  | .dfdec _ _ => none
  | .wlen _ => none
  | .wget _ _ => none
  | .rdcr _ => none

/-- The context a command can change: DFINIT its own, DFENC the encoder's, DFDEC the decoder's
(10_state.md R24, 60_exceptions.md R175). -/
def contextDestination : Instr → Option Ctx
  | .dfinit c _ => some c
  | .dfenc _ _ => some .enc
  | .dfdec _ _ => some .dec
  | .fnew _ _ _ => none
  | .fget _ _ _ => none
  | .fset _ _ _ _ => none
  | .feq _ _ => none
  | .fdown _ _ _ => none
  | .frows _ => none
  | .fcols _ => none
  | .fxor _ _ _ => none
  | .fxora _ _ => none
  | .vget _ _ _ _ _ _ _ => none
  | .vset _ _ _ _ _ _ _ _ => none
  | .vexp _ _ _ _ _ _ => none
  | .rleenc _ _ => none
  | .rledec _ _ => none
  | .wclr _ => none
  | .wpush _ _ => none
  | .wlen _ => none
  | .wget _ _ => none
  | .rdcr _ => none

/-! ### A session of the delta codec -/

/-- The host puts the frame `x` into `F[fa]`, has it encoded into `W[wd]` and decoded from there into
`F[fd]`; the state it ends in, if both commands have a next state (44_delta_frame.md R144). -/
def deliver (fa fd : FReg) (wd : WReg) (s : State) (x : MatrixValue) : Option State :=
  match exec (.dfenc wd fa) (s.setFrame fa x) with
  | .next t =>
    match exec (.dfdec fd wd) t with
    | .next u => some u
    | .fault _ => none
    | .refused _ => none
  | .fault _ => none
  | .refused _ => none

/-- The state after an ordered sequence of frames, each delivered exactly once, and the frames the
decoder returned (44_delta_frame.md R144). -/
def deliverAll (fa fd : FReg) (wd : WReg) :
    State → List MatrixValue → Option (State × List MatrixValue)
  | s, [] => some (s, [])
  | s, x :: xs =>
    match deliver fa fd wd s x with
    | none => none
    | some u => (deliverAll fa fd wd u xs).map fun r => (r.1, u.frame fd :: r.2)

end Sys2Proof.Machine
end

