-- ==== Sys2Proof/Certificates/Slice0/Obligations.lean ====
section
/-! DEFINITION. The statements for the provers, each from a numbered rule or a section of the spec. -/

open Sys2Proof Sys2Proof.Machine

/-! ## Encoding (30_encoding.md) -/

/-- Decode and encode agree: every command that the encoding can express is decoded from its own
transaction, with every operand (30_encoding.md sections 1 and 2). -/
def Obligations.DecodeOfEncodeIsIdentity : Prop :=
  ∀ i : Instr, i.wellFormed = true → decode (encode i) = .ok i

/-- Every transaction that decodes is the one the encoder gives for the command read
(30_encoding.md section 3, last sentence of R65). -/
def Obligations.DecodedCommandHasOneTransaction : Prop :=
  ∀ (t : Transaction) (i : Instr), decode t = .ok i → i.wellFormed = true ∧ encode i = t

/-- R65: the four checks in their order, what each reports, that a failing check changes no state, and
that each command and operand choice has one legal command word. -/
def Obligations.DecodingChecksInOrder : Prop :=
  (∀ t : Transaction,
    ((∀ o : Opcode, o.code.toNat ≠ t.command.toNat % 256) → decode t = .error .badOpcode) ∧
    ∀ o : Opcode, o.code.toNat = t.command.toNat % 256 →
      ((fieldsOf t.command).unusedZero o.uses = false → decode t = .error .reservedBits) ∧
      ((fieldsOf t.command).unusedZero o.uses = true →
        t.operands.length ≠ o.format.operandWords → decode t = .error .badLength) ∧
      ((fieldsOf t.command).unusedZero o.uses = true →
        t.operands.length = o.format.operandWords →
        o = .rdcr → 6 < t.command.toNat / 2 ^ 16 % 256 → decode t = .error .badCr) ∧
      ((fieldsOf t.command).unusedZero o.uses = true →
        t.operands.length = o.format.operandWords →
        (o = .rdcr → t.command.toNat / 2 ^ 16 % 256 ≤ 6) →
        ∃ i, decode t = .ok i ∧ i.opcode = o)) ∧
  (∀ (s : State) (t : Transaction) (rest : List HostEvent), s.cfg.legal = true →
    s.input = .command t :: rest →
    (decode t = .error .badOpcode →
      step s = .next (rejectedWith { s with input := rest } 6#3 0x51#32)) ∧
    (decode t = .error .reservedBits →
      step s = .next (rejectedWith { s with input := rest } 6#3 0x52#32)) ∧
    (decode t = .error .badLength →
      step s = .next (rejectedWith { s with input := rest } 6#3 0x54#32)) ∧
    (decode t = .error .badCr →
      step s = .next (rejectedWith { s with input := rest } 6#3 0x53#32))) ∧
  ∀ (t t' : Transaction) (i : Instr), decode t = .ok i → decode t' = .ok i → t = t'

/-- 30_encoding.md section 2: a command word selects a row of the opcode map exactly when the row's mask
leaves of it the opcode alone. -/
def Obligations.MaskSelectsOpcodeRow : Prop :=
  ∀ (w : Word) (o : Opcode),
    (w &&& o.mask = o.code.zeroExtend 32) ↔
      (Opcode.ofByte (fieldsOf w).op = some o ∧ (fieldsOf w).unusedZero o.uses = true)

/-- 30_encoding.md section 3: the unassigned opcodes are exactly those that R66 lists. -/
def Obligations.UnassignedOpcodesAreThoseListed : Prop :=
  ∀ t : Transaction, decode t = .error .badOpcode ↔
    (t.command.toNat % 256 = 0 ∨
      (0x08 ≤ t.command.toNat % 256 ∧ t.command.toNat % 256 ≤ 0x0F) ∨
      (0x12 ≤ t.command.toNat % 256 ∧ t.command.toNat % 256 ≤ 0x17) ∨
      (0x1B ≤ t.command.toNat % 256 ∧ t.command.toNat % 256 ≤ 0x1F) ∨
      (0x22 ≤ t.command.toNat % 256 ∧ t.command.toNat % 256 ≤ 0x27) ∨
      (0x2B ≤ t.command.toNat % 256 ∧ t.command.toNat % 256 ≤ 0x3F) ∨
      (0x44 ≤ t.command.toNat % 256 ∧ t.command.toNat % 256 ≤ 0x47) ∨
      0x49 ≤ t.command.toNat % 256)

/-- Words that the spec writes out, one or two of each unit, decode to the commands it says. -/
def Obligations.SpecWordsDecode : Prop :=
  decode ⟨0x00004103#32, [0#32, 1#32]⟩ = .ok (.fset .f1 true 0#32 1#32) ∧
  decode ⟨0x00001210#32, []⟩ = .ok (.fxor .f2 .f0 .f1) ∧
  decode ⟨0x00000411#32, []⟩ = .ok (.fxora .f0 .f1) ∧
  decode ⟨0x0000011A#32, [0#32, 0#32, 3#32, 3#32]⟩ = .ok (.vexp .w1 .f0 0#32 0#32 3#32 3#32) ∧
  decode ⟨0x00000820#32, []⟩ = .ok (.rleenc .w0 .f2) ∧
  decode ⟨0x00008028#32, []⟩ = .ok (.dfinit .dec .f0) ∧
  decode ⟨0x0000022A#32, []⟩ = .ok (.dfdec .f2 .w0) ∧
  decode ⟨0x00830141#32, []⟩ = .ok (.wpush .w1 0x83#8) ∧
  decode ⟨0x00060048#32, []⟩ = .ok (.rdcr 6#8)

/-- 20_memory.md section 2 (R44): a transaction sent over a byte channel takes four bytes a word, byte
`4j + k` is byte k of word j counted from the least significant, and it is read back as it was. -/
def Obligations.ByteChannelRoundTrip : Prop :=
  ∀ t : Transaction, t.bytes.length = 4 * (1 + t.operands.length) ∧
    (∀ (j k : Nat) (w : Word), (t.command :: t.operands)[j]? = some w → k < 4 →
      t.bytes[4 * j + k]? = some (BitVec.ofNat 8 (w.toNat / 2 ^ (8 * k) % 256))) ∧
    Transaction.ofBytes t.bytes = some t

/-! ## Steps -/

/-- When the host presents a transaction that decodes to `i`, the step is `exec i` on the state that has
taken it; a step adds nothing else around `exec` (20_memory.md sections 4 and 6). -/
def Obligations.StepRunsTheDecodedCommand : Prop :=
  ∀ (s : State) (t : Transaction) (rest : List HostEvent) (i : Instr),
    s.cfg.legal = true → s.input = .command t :: rest → decode t = .ok i →
    step s = exec i { s with input := rest }

/-- Reset asserted between two commands puts every piece of state at its reset value and does not touch
the parameters (70_reset_and_hazards.md section 1); that it leaves the rest of the host's input and the
responses already given is the model's choice (log 4). -/
def Obligations.ResetEventRestoresResetState : Prop :=
  ∀ (s : State) (rest : List HostEvent), s.cfg.legal = true → s.input = .reset :: rest →
    ∃ t, step s = .next t ∧ t.cfg = s.cfg ∧ t.frames = (State.resetOf s.cfg).frames ∧
      t.streams = (State.resetOf s.cfg).streams ∧ t.enc = (State.resetOf s.cfg).enc ∧
      t.dec = (State.resetOf s.cfg).dec ∧ t.input = rest ∧ t.responses = s.responses

/-- R33: the value of every piece of state after reset, and that reading a register no command has
written returns it. -/
def Obligations.ResetStateValues : Prop :=
  ∀ p : Config,
    (∀ r : FReg, (State.resetOf p).frame r = { rows := 0, cols := 0, bits := [] }) ∧
    (∀ r : WReg, (State.resetOf p).stream r = []) ∧
    (∀ c : Ctx, (State.resetOf p).synced c = false ∧
      ((State.resetOf p).context c).latest.rows = p.rows c ∧
      ((State.resetOf p).context c).latest.cols = p.cols c ∧
      ((State.resetOf p).context c).latest.bits = List.replicate (p.rows c * p.cols c) false) ∧
    (State.resetOf p).controlRegister 0 = some p.runWidth ∧
    (State.resetOf p).controlRegister 1 = some p.sizeWidth ∧
    (State.resetOf p).controlRegister 2 = some p.rowsE ∧
    (State.resetOf p).controlRegister 3 = some p.colsE ∧
    (State.resetOf p).controlRegister 4 = some p.rowsD ∧
    (State.resetOf p).controlRegister 5 = some p.colsD ∧
    (State.resetOf p).controlRegister 6 = some 0 ∧
    (∀ fa : FReg, ∃ t, exec (.frows fa) (State.resetOf p) = .next t ∧
      SameBlock (State.resetOf p) t ∧ Answered (State.resetOf p) t 0) ∧
    (∀ wa : WReg, ∃ t, exec (.wlen wa) (State.resetOf p) = .next t ∧
      SameBlock (State.resetOf p) t ∧ Answered (State.resetOf p) t 0)

/-- The model's choice (log 2): when the host presents nothing, a step of a legal block changes nothing;
70_reset_and_hazards.md section 1: "after reset the block waits for its first command". -/
def Obligations.SilentHostChangesNothing : Prop :=
  ∀ s : State, s.cfg.legal = true → s.input = [] → step s = .next s

/-- R6, with the legal values of 00_scope.md R5 (93_implementation_defined.md P4): a legal configuration
keeps both configured frames within a frame register and within the size field; a configuration with a
width that is 0 or no multiple of 8, a dimension or a capacity of 2^32 or more, or a configured frame
that does not fit is refused; and no other is illegal, for widths that a control register holds, as
10_state.md R27 says a model takes them. -/
def Obligations.IllegalConfigurationIsRefused : Prop :=
  (∀ p : Config, p.legal = true → ∀ c : Ctx,
    p.rows c * p.cols c ≤ p.bitsCap ∧ p.rows c * p.cols c < 2 ^ p.sizeWidth) ∧
  (∀ (s : State) (c : Ctx),
    (s.cfg.runWidth = 0 ∨ s.cfg.runWidth % 8 ≠ 0 ∨ s.cfg.sizeWidth = 0 ∨ s.cfg.sizeWidth % 8 ≠ 0 ∨
      2 ^ 32 ≤ s.cfg.rows c ∨ 2 ^ 32 ≤ s.cfg.cols c ∨
      2 ^ 32 ≤ s.cfg.bitsCap ∨ 2 ^ 32 ≤ s.cfg.bytesCap ∨
      s.cfg.bitsCap < s.cfg.rows c * s.cfg.cols c ∨
      2 ^ s.cfg.sizeWidth ≤ s.cfg.rows c * s.cfg.cols c) →
    step s = .refused .illegalConfiguration) ∧
  ∀ p : Config, 0 < p.runWidth → p.runWidth % 8 = 0 → 0 < p.sizeWidth → p.sizeWidth % 8 = 0 →
    p.runWidth < 2 ^ 32 → p.sizeWidth < 2 ^ 32 →
    (∀ c : Ctx, p.rows c < 2 ^ 32 ∧ p.cols c < 2 ^ 32 ∧ p.rows c * p.cols c ≤ p.bitsCap ∧
      p.rows c * p.cols c < 2 ^ p.sizeWidth) →
    p.bitsCap < 2 ^ 32 → p.bytesCap < 2 ^ 32 → p.legal = true

/-- The invariant `State.wf` (10_state.md R20, R22, R24) holds right after reset of every legal
configuration, and of the reference instance. -/
def Obligations.ResetIsWellFormed : Prop :=
  (∀ p : Config, p.legal = true → (State.resetOf p).wf) ∧ State.reset.wf

/-- Every step keeps the invariant of 10_state.md sections 2 and 3: each frame register holds
`rows × cols` bits within the capacity, each wire-stream register at most `BYTES_CAP` bytes, each
context a baseline of its configured dimensions. -/
def Obligations.StepKeepsWellFormed : Prop :=
  ∀ s t : State, s.wf → step s = .next t → t.wf

/-- 60_exceptions.md section 1: every transaction, legal or not, gets exactly one response, with a status
that is never 7, and leaves the parameters and the rest of the host's input alone. -/
def Obligations.EveryTransactionGetsOneResponse : Prop :=
  ∀ (s : State) (tr : Transaction) (rest : List HostEvent), s.cfg.legal = true →
    s.input = .command tr :: rest →
    ∃ t r, step s = .next t ∧ t.responses = s.responses ++ [r] ∧ r.status ≠ 7#3 ∧
      t.input = rest ∧ t.cfg = s.cfg

/-- R173: a transaction whose response has a status other than OK, whether rejected by decoding or by
the command, leaves every register and context as it was; the response is the only effect. -/
def Obligations.RejectedCommandChangesNothing : Prop :=
  ∀ (s t : State) (tr : Transaction) (rest : List HostEvent) (r : Response),
    s.input = .command tr :: rest → step s = .next t → t.responses = s.responses ++ [r] →
    r.status ≠ 0#3 →
    t.cfg = s.cfg ∧ t.frames = s.frames ∧ t.streams = s.streams ∧ t.enc = s.enc ∧ t.dec = s.dec ∧
      t.input = rest

/-- 60_exceptions.md section 2: at execution a command answers OK or raises an error of its row of the
table, and no other. -/
def Obligations.ErrorsPerCommand : Prop :=
  ∀ (i : Instr) (s t : State), i.wellFormed = true → exec i s = .next t →
    ∃ r, t.responses = s.responses ++ [r] ∧
      (r.status = 0#3 ∨ ∃ e ∈ errorsOf i, r = Response.error e)

/-- R28: the responses given so far, the only place a status is, have no influence on a later command:
with any other history the command gives the same response and the same state. -/
def Obligations.StatusIsNotVisibleLater : Prop :=
  ∀ (i : Instr) (s : State) (history : List Response),
    ∃ t r, exec i s = .next t ∧ t.responses = s.responses ++ [r] ∧
      exec i { s with responses := history } = .next { t with responses := history ++ [r] }

/-- 10_state.md sections 2 and 3, 60_exceptions.md section 2: a command changes no frame register, no
wire-stream register and no context but those it names as destination, never the parameters, and
takes nothing from the host's input. -/
def Obligations.CommandsChangeOnlyTheirDestinations : Prop :=
  ∀ (i : Instr) (s t : State), exec i s = .next t →
    t.cfg = s.cfg ∧ t.input = s.input ∧
      (∀ r, frameDestination i ≠ some r → t.frame r = s.frame r) ∧
      (∀ r, streamDestination i ≠ some r → t.stream r = s.stream r) ∧
      (∀ c, contextDestination i ≠ some c → t.context c = s.context c)

/-- 10_state.md section 5 (R31): the baselines are private; a command other than DFENC and DFDEC gives
the same response, registers and synced flags whatever the baselines are. -/
def Obligations.BaselinesAreReadByDeltaCommandsOnly : Prop :=
  ∀ (i : Instr) (s : State) (me md : MatrixValue),
    (∀ wd fa, i ≠ .dfenc wd fa) → (∀ fd wa, i ≠ .dfdec fd wa) →
    ∃ t u r, exec i s = .next t ∧
      exec i { s with enc := { s.enc with latest := me }, dec := { s.dec with latest := md } } =
        .next u ∧
      t.responses = s.responses ++ [r] ∧ u.responses = s.responses ++ [r] ∧
      u.frames = t.frames ∧ u.streams = t.streams ∧
      u.enc.synced = t.enc.synced ∧ u.dec.synced = t.dec.synced

/-- 10_state.md section 3 (R25): no command makes a Synced context Uninitialized; only reset does. -/
def Obligations.SyncedFallsOnlyByReset : Prop :=
  ∀ (s t : State) (c : Ctx), step s = .next t → s.synced c = true → t.synced c = false →
    ∃ rest, s.input = .reset :: rest

/-- 20_memory.md section 4 (R48): FGET, FEQ, FROWS, FCOLS, VGET, WLEN, WGET and RDCR change no state, and
repeated at once give the same response. -/
def Obligations.ReadsChangeNothing : Prop :=
  ∀ (i : Instr) (s : State), isRead i = true →
    ∃ t u r, exec i s = .next t ∧ SameBlock s t ∧ t.responses = s.responses ++ [r] ∧
      exec i t = .next u ∧ SameBlock s u ∧ u.responses = t.responses ++ [r]

/-! ## Frame store (40_frame_store.md) -/

/-- R81: FNEW, its encoding, its result and its one rejection. -/
def Obligations.FnewWritesAllFalse : Prop :=
  ∀ (fd : FReg) (rows cols : Word) (s : State),
    decode ⟨commandWord 0x01 (frameIndex fd) 0 0 0 0 0, [rows, cols]⟩ = .ok (.fnew fd rows cols) ∧
    (rows.toNat * cols.toNat ≤ s.cfg.bitsCap →
      ∃ t, exec (.fnew fd rows cols) s = .next t ∧ OnlyFrame fd s t ∧ Answered s t 0 ∧
        t.frame fd = { rows := rows.toNat, cols := cols.toNat,
                       bits := List.replicate (rows.toNat * cols.toNat) false }) ∧
    (s.cfg.bitsCap < rows.toNat * cols.toNat →
      exec (.fnew fd rows cols) s = .next (rejectedWith s 3#3 0x22#32))

/-- R82: FGET reads the bit at the row-major index and changes nothing; row and column are checked one by
one. -/
def Obligations.FgetReadsOneBit : Prop :=
  ∀ (fa : FReg) (row col : Word) (s : State),
    decode ⟨commandWord 0x02 0 (frameIndex fa) 0 0 0 0, [row, col]⟩ = .ok (.fget fa row col) ∧
    ((s.frame fa).wf → row.toNat < (s.frame fa).rows → col.toNat < (s.frame fa).cols →
      ∃ b t, (s.frame fa).bits[row.toNat * (s.frame fa).cols + col.toNat]? = some b ∧
        exec (.fget fa row col) s = .next t ∧ SameBlock s t ∧ Answered s t b.toNat) ∧
    ((s.frame fa).rows ≤ row.toNat ∨ (s.frame fa).cols ≤ col.toNat →
      exec (.fget fa row col) s = .next (rejectedWith s 1#3 0x01#32))

/-- R83: FSET writes the addressed bit and nothing else. -/
def Obligations.FsetWritesOneBit : Prop :=
  ∀ (fd : FReg) (v : Bool) (row col : Word) (s : State),
    decode ⟨commandWord 0x03 (frameIndex fd) 0 0 v.toNat 0 0, [row, col]⟩ =
      .ok (.fset fd v row col) ∧
    ((s.frame fd).wf → row.toNat < (s.frame fd).rows → col.toNat < (s.frame fd).cols →
      ∃ t, exec (.fset fd v row col) s = .next t ∧ OnlyFrame fd s t ∧ Answered s t 0 ∧
        (t.frame fd).rows = (s.frame fd).rows ∧ (t.frame fd).cols = (s.frame fd).cols ∧
        (t.frame fd).bits[row.toNat * (s.frame fd).cols + col.toNat]? = some v ∧
        ∀ k, k ≠ row.toNat * (s.frame fd).cols + col.toNat →
          (t.frame fd).bits[k]? = (s.frame fd).bits[k]?) ∧
    ((s.frame fd).rows ≤ row.toNat ∨ (s.frame fd).cols ≤ col.toNat →
      exec (.fset fd v row col) s = .next (rejectedWith s 1#3 0x01#32))

/-- R84: FEQ answers 1 exactly when dimensions and every bit match; it never fails. -/
def Obligations.FeqComparesDimensionsAndBits : Prop :=
  ∀ (fa fb : FReg) (s : State),
    decode ⟨commandWord 0x04 0 (frameIndex fa) (frameIndex fb) 0 0 0, []⟩ = .ok (.feq fa fb) ∧
    ∃ t, exec (.feq fa fb) s = .next t ∧ SameBlock s t ∧
      ((s.frame fa).rows = (s.frame fb).rows ∧ (s.frame fa).cols = (s.frame fb).cols ∧
        (s.frame fa).bits = (s.frame fb).bits → Answered s t 1) ∧
      ((s.frame fa).rows ≠ (s.frame fb).rows ∨ (s.frame fa).cols ≠ (s.frame fb).cols ∨
        (s.frame fa).bits ≠ (s.frame fb).bits → Answered s t 0)

/-- R85: FDOWN divides the dimensions by floor division and keeps of each block its top-left cell. -/
def Obligations.FdownKeepsTopLeftCells : Prop :=
  ∀ (fd : FReg) (hScale vScale : Word) (s : State),
    decode ⟨commandWord 0x05 (frameIndex fd) 0 0 0 0 0, [hScale, vScale]⟩ =
      .ok (.fdown fd hScale vScale) ∧
    ((s.frame fd).wf → hScale.toNat ≠ 0 → vScale.toNat ≠ 0 →
      ∃ t, exec (.fdown fd hScale vScale) s = .next t ∧ OnlyFrame fd s t ∧ Answered s t 0 ∧
        (t.frame fd).rows = (s.frame fd).rows / vScale.toNat ∧
        (t.frame fd).cols = (s.frame fd).cols / hScale.toNat ∧
        (t.frame fd).wf ∧
        ∀ r c, r < (t.frame fd).rows → c < (t.frame fd).cols →
          ∃ b, (s.frame fd).bits[r * vScale.toNat * (s.frame fd).cols + c * hScale.toNat]? =
              some b ∧
            (t.frame fd).bits[r * (t.frame fd).cols + c]? = some b) ∧
    (hScale.toNat = 0 ∨ vScale.toNat = 0 →
      exec (.fdown fd hScale vScale) s = .next (rejectedWith s 1#3 0x03#32))

/-- R86 and R87: FROWS and FCOLS answer the dimensions. -/
def Obligations.FrowsAndFcolsAnswerDimensions : Prop :=
  ∀ (fa : FReg) (s : State),
    decode ⟨commandWord 0x06 0 (frameIndex fa) 0 0 0 0, []⟩ = .ok (.frows fa) ∧
    decode ⟨commandWord 0x07 0 (frameIndex fa) 0 0 0 0, []⟩ = .ok (.fcols fa) ∧
    ((s.frame fa).fits s.cfg →
      (∃ t, exec (.frows fa) s = .next t ∧ SameBlock s t ∧ Answered s t (s.frame fa).rows) ∧
      ∃ t, exec (.fcols fa) s = .next t ∧ SameBlock s t ∧ Answered s t (s.frame fa).cols)

/-- R88: FNEW then FGET in range gives 0; FSET then FGET gives the bit written there and elsewhere what
it gave before; FDOWN then FGET gives the sampled source bit. -/
def Obligations.FrameStoreLaws : Prop :=
  (∀ (s : State) (fd : FReg) (rows cols row col : Word), rows.toNat * cols.toNat ≤ s.cfg.bitsCap →
    row.toNat < rows.toNat → col.toNat < cols.toNat →
    ∃ t u, exec (.fnew fd rows cols) s = .next t ∧ exec (.fget fd row col) t = .next u ∧
      Answered t u 0) ∧
  (∀ (s : State) (fd : FReg) (v : Bool) (row col : Word), s.wf →
    row.toNat < (s.frame fd).rows → col.toNat < (s.frame fd).cols →
    ∃ t, exec (.fset fd v row col) s = .next t ∧
      (∃ u, exec (.fget fd row col) t = .next u ∧ Answered t u v.toNat) ∧
      ∀ row' col' : Word, row' ≠ row ∨ col' ≠ col →
        ∃ r u u', exec (.fget fd row' col') s = .next u ∧ u.responses = s.responses ++ [r] ∧
          exec (.fget fd row' col') t = .next u' ∧ u'.responses = t.responses ++ [r]) ∧
  ∀ (s : State) (fd : FReg) (hScale vScale : Word), s.wf → hScale.toNat ≠ 0 → vScale.toNat ≠ 0 →
    ∃ t, exec (.fdown fd hScale vScale) s = .next t ∧
      (t.frame fd).rows = (s.frame fd).rows / vScale.toNat ∧
      (t.frame fd).cols = (s.frame fd).cols / hScale.toNat ∧
      ∀ r c r' c' : Word, r.toNat < (t.frame fd).rows → c.toNat < (t.frame fd).cols →
        r'.toNat = r.toNat * vScale.toNat → c'.toNat = c.toNat * hScale.toNat →
        ∃ b u u', exec (.fget fd r' c') s = .next u ∧ Answered s u b ∧
          exec (.fget fd r c) t = .next u' ∧ Answered t u' b

/-! ## XOR pipeline (41_xor_pipeline.md) -/

/-- R101: FXOR writes the bitwise exclusive-or of two matrices of equal dimensions; the destination may
be a source. -/
def Obligations.FxorWritesBitwiseXor : Prop :=
  ∀ (fd fa fb : FReg) (s : State),
    decode ⟨commandWord 0x10 (frameIndex fd) (frameIndex fa) (frameIndex fb) 0 0 0, []⟩ =
      .ok (.fxor fd fa fb) ∧
    ((s.frame fa).wf → (s.frame fb).wf → (s.frame fa).rows = (s.frame fb).rows →
      (s.frame fa).cols = (s.frame fb).cols →
      ∃ t, exec (.fxor fd fa fb) s = .next t ∧ OnlyFrame fd s t ∧ Answered s t 0 ∧
        (t.frame fd).rows = (s.frame fa).rows ∧ (t.frame fd).cols = (s.frame fa).cols ∧
        (t.frame fd).wf ∧
        ∀ (k : Nat) (a b : Bool), (s.frame fa).bits[k]? = some a → (s.frame fb).bits[k]? = some b →
          (t.frame fd).bits[k]? = some (a != b)) ∧
    ((s.frame fa).rows ≠ (s.frame fb).rows ∨ (s.frame fa).cols ≠ (s.frame fb).cols →
      exec (.fxor fd fa fb) s = .next (rejectedWith s 2#3 0x11#32))

/-- R102: FXORA xors a matrix into its receiver; it is FXOR with the receiver as second source. -/
def Obligations.FxoraXorsInPlace : Prop :=
  ∀ (fd fa : FReg) (s : State),
    decode ⟨commandWord 0x11 (frameIndex fd) (frameIndex fa) 0 0 0 0, []⟩ = .ok (.fxora fd fa) ∧
    exec (.fxora fd fa) s = exec (.fxor fd fa fd) s ∧
    ((s.frame fd).wf → (s.frame fa).wf → (s.frame fd).rows = (s.frame fa).rows →
      (s.frame fd).cols = (s.frame fa).cols →
      ∃ t, exec (.fxora fd fa) s = .next t ∧ OnlyFrame fd s t ∧ Answered s t 0 ∧
        (t.frame fd).rows = (s.frame fd).rows ∧ (t.frame fd).cols = (s.frame fd).cols ∧
        (t.frame fd).wf ∧
        ∀ (k : Nat) (a b : Bool), (s.frame fd).bits[k]? = some a → (s.frame fa).bits[k]? = some b →
          (t.frame fd).bits[k]? = some (a != b)) ∧
    ((s.frame fd).rows ≠ (s.frame fa).rows ∨ (s.frame fd).cols ≠ (s.frame fa).cols →
      exec (.fxora fd fa) s = .next (rejectedWith s 2#3 0x11#32))

/-- R103: the laws of XOR on matrix values of equal dimensions. -/
def Obligations.XorLaws : Prop :=
  ∀ a b c : MatrixValue, a.wf → b.wf → c.wf → a.rows = b.rows → a.cols = b.cols →
    b.rows = c.rows → b.cols = c.cols →
    a.xor a = MatrixValue.zero a.rows a.cols ∧ (a.xor b).xor b = a ∧ a.xor b = b.xor a ∧
      (a.xor b).xor c = a.xor (b.xor c) ∧ a.xor (MatrixValue.zero a.rows a.cols) = a

/-- R104: FNEW with the dimensions of `F[a]`, then FXORA, copies `F[a]` into another register. -/
def Obligations.CopyIdiom : Prop :=
  ∀ (s : State) (fd fa : FReg) (r c : Word), s.wf → fd ≠ fa → r.toNat = (s.frame fa).rows →
    c.toNat = (s.frame fa).cols →
    ∃ t u, exec (.fnew fd r c) s = .next t ∧ exec (.fxora fd fa) t = .next u ∧
      OnlyFrame fd s u ∧ u.frame fd = s.frame fa

/-! ## Window and export (42_window_export.md) -/

/-- R112: VGET reads the translated position; the window check comes before the matrix check; the window
of the whole matrix reads as FGET. -/
def Obligations.VgetReadsThroughWindow : Prop :=
  ∀ (fa : FReg) (sr sc nr nc row col : Word) (s : State),
    decode ⟨commandWord 0x18 0 (frameIndex fa) 0 0 0 0, [sr, sc, nr, nc, row, col]⟩ =
      .ok (.vget fa sr sc nr nc row col) ∧
    ((s.frame fa).wf → row.toNat < nr.toNat → col.toNat < nc.toNat →
      sr.toNat + row.toNat < (s.frame fa).rows → sc.toNat + col.toNat < (s.frame fa).cols →
      ∃ b t, (s.frame fa).bits[(sr.toNat + row.toNat) * (s.frame fa).cols +
          (sc.toNat + col.toNat)]? = some b ∧
        exec (.vget fa sr sc nr nc row col) s = .next t ∧ SameBlock s t ∧ Answered s t b.toNat) ∧
    (nr.toNat ≤ row.toNat ∨ nc.toNat ≤ col.toNat →
      exec (.vget fa sr sc nr nc row col) s = .next (rejectedWith s 1#3 0x02#32)) ∧
    (row.toNat < nr.toNat → col.toNat < nc.toNat →
      (s.frame fa).rows ≤ sr.toNat + row.toNat ∨ (s.frame fa).cols ≤ sc.toNat + col.toNat →
      exec (.vget fa sr sc nr nc row col) s = .next (rejectedWith s 1#3 0x01#32)) ∧
    (sr = 0#32 → sc = 0#32 → nr.toNat = (s.frame fa).rows → nc.toNat = (s.frame fa).cols →
      row.toNat < nr.toNat → col.toNat < nc.toNat →
      exec (.vget fa sr sc nr nc row col) s = exec (.fget fa row col) s)

/-- R113: VSET writes the bit at the translated position and nothing else. -/
def Obligations.VsetWritesThroughWindow : Prop :=
  ∀ (fd : FReg) (v : Bool) (sr sc nr nc row col : Word) (s : State),
    decode ⟨commandWord 0x19 (frameIndex fd) 0 0 v.toNat 0 0, [sr, sc, nr, nc, row, col]⟩ =
      .ok (.vset fd v sr sc nr nc row col) ∧
    ((s.frame fd).wf → row.toNat < nr.toNat → col.toNat < nc.toNat →
      sr.toNat + row.toNat < (s.frame fd).rows → sc.toNat + col.toNat < (s.frame fd).cols →
      ∃ t, exec (.vset fd v sr sc nr nc row col) s = .next t ∧ OnlyFrame fd s t ∧
        Answered s t 0 ∧
        (t.frame fd).rows = (s.frame fd).rows ∧ (t.frame fd).cols = (s.frame fd).cols ∧
        (t.frame fd).bits[(sr.toNat + row.toNat) * (s.frame fd).cols +
          (sc.toNat + col.toNat)]? = some v ∧
        ∀ k, k ≠ (sr.toNat + row.toNat) * (s.frame fd).cols + (sc.toNat + col.toNat) →
          (t.frame fd).bits[k]? = (s.frame fd).bits[k]?) ∧
    (nr.toNat ≤ row.toNat ∨ nc.toNat ≤ col.toNat →
      exec (.vset fd v sr sc nr nc row col) s = .next (rejectedWith s 1#3 0x02#32)) ∧
    (row.toNat < nr.toNat → col.toNat < nc.toNat →
      (s.frame fd).rows ≤ sr.toNat + row.toNat ∨ (s.frame fd).cols ≤ sc.toNat + col.toNat →
      exec (.vset fd v sr sc nr nc row col) s = .next (rejectedWith s 1#3 0x01#32))

/-- R114: VEXP replaces `W[d]` by the window's bits, scanned row by row and packed least significant
first, the unused bits 0; the capacity is checked before the scan; an empty window makes no access. -/
def Obligations.VexpPacksTheWindow : Prop :=
  ∀ (wd : WReg) (fa : FReg) (sr sc nr nc : Word) (s : State),
    decode ⟨commandWord 0x1A (streamIndex wd) (frameIndex fa) 0 0 0 0, [sr, sc, nr, nc]⟩ =
      .ok (.vexp wd fa sr sc nr nc) ∧
    ((s.frame fa).wf → (nr.toNat * nc.toNat + 7) / 8 ≤ s.cfg.bytesCap →
      nr.toNat * nc.toNat = 0 ∨ (sr.toNat + nr.toNat ≤ (s.frame fa).rows ∧
        sc.toNat + nc.toNat ≤ (s.frame fa).cols) →
      ∃ t, exec (.vexp wd fa sr sc nr nc) s = .next t ∧ OnlyStream wd s t ∧ Answered s t 0 ∧
        (t.stream wd).length = (nr.toNat * nc.toNat + 7) / 8 ∧
        (∀ r c, r < nr.toNat → c < nc.toNat →
          ∃ b byte,
            (s.frame fa).bits[(sr.toNat + r) * (s.frame fa).cols + (sc.toNat + c)]? = some b ∧
            (t.stream wd)[(r * nc.toNat + c) / 8]? = some byte ∧
            byte.getLsbD ((r * nc.toNat + c) % 8) = b) ∧
        ∀ (k : Nat) (byte : Byte), nr.toNat * nc.toNat ≤ k → (t.stream wd)[k / 8]? = some byte →
          byte.getLsbD (k % 8) = false) ∧
    (s.cfg.bytesCap < (nr.toNat * nc.toNat + 7) / 8 →
      exec (.vexp wd fa sr sc nr nc) s = .next (rejectedWith s 3#3 0x21#32)) ∧
    ((nr.toNat * nc.toNat + 7) / 8 ≤ s.cfg.bytesCap → 0 < nr.toNat * nc.toNat →
      (s.frame fa).rows < sr.toNat + nr.toNat ∨ (s.frame fa).cols < sc.toNat + nc.toNat →
      exec (.vexp wd fa sr sc nr nc) s = .next (rejectedWith s 1#3 0x01#32))

/-- R115: where `PackBits` puts each bit, how many bytes it gives, and that unused bits are 0. -/
def Obligations.PackBitsPositions : Prop :=
  ∀ s : List Bool, (packBits s).length = (s.length + 7) / 8 ∧
    (∀ k b, s[k]? = some b →
      ∃ byte, (packBits s)[k / 8]? = some byte ∧ byte.getLsbD (k % 8) = b) ∧
    ∀ (k : Nat) (byte : Byte), s.length ≤ k → (packBits s)[k / 8]? = some byte → byte.getLsbD (k % 8) = false

/-! ## Run-length codec (43_rle_codec.md) -/

/-- R121: the first `HB` bytes of an encoder's stream hold the bit count, least significant byte first,
and read back as it. -/
def Obligations.SizeFieldIsLittleEndian : Prop :=
  ∀ (p : Config) (b : List Bool), p.legal = true → b.length < 2 ^ p.sizeWidth →
    (∀ k, k < p.headerBytes →
      (rleEncode p b)[k]? = some (BitVec.ofNat 8 (b.length / 2 ^ (8 * k) % 256))) ∧
    memRead (rleEncode p b) 0 p.headerBytes = b.length

/-- R123: the length field holds the length modulo `MAXRUN`, the maximum as 0; a record reads back as the
run it codes; no field stands for a run of length 0. -/
def Obligations.RecordCodingInverts : Prop :=
  ∀ (p : Config) (v : Bool) (len : Nat), p.legal = true →
    (1 ≤ len → len < p.maxRun → lengthField p.maxRun len = len) ∧
    lengthField p.maxRun p.maxRun = 0 ∧
    (1 ≤ len → len ≤ p.maxRun →
      recordOf p.maxRun { value := v, length := len } = v.toNat * p.maxRun + len % p.maxRun ∧
      recordOf p.maxRun { value := v, length := len } < 2 ^ p.runWidth ∧
      runOfRecord p.maxRun (recordOf p.maxRun { value := v, length := len }) =
        { value := v, length := len }) ∧
    ∀ f, f < p.maxRun → 1 ≤ runLengthOf p.maxRun f ∧ runLengthOf p.maxRun f ≤ p.maxRun ∧
      lengthField p.maxRun (runLengthOf p.maxRun f) = f

/-- 43_rle_codec.md section 2 (R124): the maximal runs of a bit sequence spell it, are not empty, differ
from their neighbours, and are the only runs that do. -/
def Obligations.MaximalRunsAreTheOnlySplit : Prop :=
  ∀ b : List Bool,
    (expandRuns (maximalRuns b) = b ∧ (∀ r ∈ maximalRuns b, 1 ≤ r.length) ∧
      (maximalRuns b).IsChain fun r r' => r.value ≠ r'.value) ∧
    ∀ rs : List Run, expandRuns rs = b → (∀ r ∈ rs, 1 ≤ r.length) →
      (rs.IsChain fun r r' => r.value ≠ r'.value) → rs = maximalRuns b

/-- R125: the streaming loop computes the records of every non-empty bit sequence. -/
def Obligations.StreamingEncoderComputesRecords : Prop :=
  ∀ (p : Config) (b : List Bool), p.legal = true → b ≠ [] → streamRecords p b = records p b

/-- R126: the empty sequence is encoded as the size field alone, with value 0, and that stream decodes to
the empty sequence. -/
def Obligations.EmptyInputIsHeaderOnly : Prop :=
  (∀ p : Config, rleEncode p [] = leBytes p.headerBytes 0) ∧
  (∀ p : Config, p.legal = true → rleDecode p (leBytes p.headerBytes 0) = .ok []) ∧
  rleEncode Config.ref [] = [0x00#8, 0x00#8]

/-- R128: RLEENC writes the stream of the frame register's bits, whatever its dimensions. -/
def Obligations.RleencWritesTheStream : Prop :=
  ∀ (wd : WReg) (fa : FReg) (s : State),
    decode ⟨commandWord 0x20 (streamIndex wd) (frameIndex fa) 0 0 0 0, []⟩ = .ok (.rleenc wd fa) ∧
    ((s.frame fa).bits.length < 2 ^ s.cfg.sizeWidth →
      (rleEncode s.cfg (s.frame fa).bits).length ≤ s.cfg.bytesCap →
      ∃ t, exec (.rleenc wd fa) s = .next t ∧ OnlyStream wd s t ∧ Answered s t 0 ∧
        t.stream wd = rleEncode s.cfg (s.frame fa).bits) ∧
    (2 ^ s.cfg.sizeWidth ≤ (s.frame fa).bits.length →
      exec (.rleenc wd fa) s = .next (rejectedWith s 1#3 0x04#32)) ∧
    ((s.frame fa).bits.length < 2 ^ s.cfg.sizeWidth →
      s.cfg.bytesCap < (rleEncode s.cfg (s.frame fa).bits).length →
      exec (.rleenc wd fa) s = .next (rejectedWith s 3#3 0x21#32))

/-- 43_rle_codec.md section 3 (R129, R130, R132): a stream of a size field and any records, canonical or
not, decodes to the bits of its records when the size field holds their total, and is a length
mismatch when it does not. -/
def Obligations.DecoderExpandsAnyRecords : Prop :=
  ∀ (p : Config) (rs : List Run) (n : Nat), p.legal = true →
    (∀ r ∈ rs, 1 ≤ r.length ∧ r.length ≤ p.maxRun) → n < 2 ^ p.sizeWidth →
    (n = (rs.map Run.length).sum →
      rleDecode p (leBytes p.headerBytes n ++ rs.flatMap fun r =>
        leBytes p.recordBytes (r.value.toNat * p.maxRun + r.length % p.maxRun)) =
      .ok (rs.flatMap fun r => List.replicate r.length r.value)) ∧
    (n ≠ (rs.map Run.length).sum →
      rleDecode p (leBytes p.headerBytes n ++ rs.flatMap fun r =>
        leBytes p.recordBytes (r.value.toNat * p.maxRun + r.length % p.maxRun)) =
      .error .lengthMismatch)

/-- R131: a stream shorter than the size field, and one that ends inside a record, are rejected; with
one-byte records the second does not occur. -/
def Obligations.MalformedStreamsAreRejected : Prop :=
  ∀ (p : Config) (w : List Byte), p.legal = true →
    (w.length < p.headerBytes → rleDecode p w = .error .shortHeader) ∧
    (p.headerBytes ≤ w.length → (w.length - p.headerBytes) % p.recordBytes ≠ 0 →
      rleDecode p w = .error .partialRecord) ∧
    (p.recordBytes = 1 → rleDecode p w ≠ .error .partialRecord)

/-- R133: RLEDEC writes the decoded bits as a matrix of one row; the decoder's errors come first, then
the capacity. -/
def Obligations.RledecWritesOneRow : Prop :=
  ∀ (fd : FReg) (wa : WReg) (s : State),
    decode ⟨commandWord 0x21 (frameIndex fd) (streamIndex wa) 0 0 0 0, []⟩ = .ok (.rledec fd wa) ∧
    (∀ x, rleDecode s.cfg (s.stream wa) = .ok x → x.length ≤ s.cfg.bitsCap →
      ∃ t, exec (.rledec fd wa) s = .next t ∧ OnlyFrame fd s t ∧ Answered s t 0 ∧
        t.frame fd = { rows := 1, cols := x.length, bits := x }) ∧
    (rleDecode s.cfg (s.stream wa) = .error .shortHeader →
      exec (.rledec fd wa) s = .next (rejectedWith s 5#3 0x41#32)) ∧
    (rleDecode s.cfg (s.stream wa) = .error .partialRecord →
      exec (.rledec fd wa) s = .next (rejectedWith s 5#3 0x42#32)) ∧
    (rleDecode s.cfg (s.stream wa) = .error .lengthMismatch →
      exec (.rledec fd wa) s = .next (rejectedWith s 5#3 0x43#32)) ∧
    (∀ x, rleDecode s.cfg (s.stream wa) = .ok x → s.cfg.bitsCap < x.length →
      exec (.rledec fd wa) s = .next (rejectedWith s 3#3 0x22#32))

/-- R134: decoding an encoded bit sequence gives it back; RLEENC then RLEDEC give it as one row when no
capacity is exceeded; the converse fails for some streams. -/
def Obligations.RleRoundTrip : Prop :=
  (∀ (p : Config) (b : List Bool), p.legal = true → b.length < 2 ^ p.sizeWidth →
    rleDecode p (rleEncode p b) = .ok b) ∧
  (∀ (s : State) (wd : WReg) (fa fd : FReg), s.wf →
    (s.frame fa).bits.length < 2 ^ s.cfg.sizeWidth →
    (rleEncode s.cfg (s.frame fa).bits).length ≤ s.cfg.bytesCap →
    ∃ t u, exec (.rleenc wd fa) s = .next t ∧ exec (.rledec fd wd) t = .next u ∧
      u.frame fd = { rows := 1, cols := (s.frame fa).bits.length, bits := (s.frame fa).bits }) ∧
  ∃ w x, rleDecode Config.ref w = .ok x ∧ rleEncode Config.ref x ≠ w

/-- 43_rle_codec.md section 4 (R135): a run of `MAXRUN` equal bits gives one record with length field 0;
one bit more gives a second record of the same value and length 1. The size field of a bit count that
it does not hold is the model's choice (log 16). -/
def Obligations.RunLengthBoundary : Prop :=
  ∀ (p : Config) (v : Bool), p.legal = true →
    splitRun p.maxRun { value := v, length := p.maxRun } = [{ value := v, length := p.maxRun }] ∧
    splitRun p.maxRun { value := v, length := p.maxRun + 1 } =
      [{ value := v, length := p.maxRun }, { value := v, length := 1 }] ∧
    rleEncode p (List.replicate p.maxRun v) =
      leBytes p.headerBytes p.maxRun ++ leBytes p.recordBytes (v.toNat * p.maxRun) ∧
    rleEncode p (List.replicate (p.maxRun + 1) v) =
      leBytes p.headerBytes (p.maxRun + 1) ++ leBytes p.recordBytes (v.toNat * p.maxRun) ++
        leBytes p.recordBytes (v.toNat * p.maxRun + 1)

/-- 43_rle_codec.md section 4 (R136): the exact length of a stream, its least and its most, and how many
bits a stream of K records can decode to. That it says so too of bit counts that the size field does
not hold is the model's choice (log 16). -/
def Obligations.StreamSizeBounds : Prop :=
  ∀ p : Config, p.legal = true →
    (∀ b : List Bool,
      (rleEncode p b).length = p.headerBytes + p.recordBytes *
        ((maximalRuns b).map fun r => (r.length + p.maxRun - 1) / p.maxRun).sum ∧
      p.headerBytes + p.recordBytes * ((b.length + p.maxRun - 1) / p.maxRun) ≤
        (rleEncode p b).length ∧
      (rleEncode p b).length ≤ p.headerBytes + p.recordBytes * b.length) ∧
    (∀ (n : Nat) (v : Bool), (rleEncode p (List.replicate n v)).length =
      p.headerBytes + p.recordBytes * ((n + p.maxRun - 1) / p.maxRun)) ∧
    ∀ w x, rleDecode p w = .ok x →
      (w.length - p.headerBytes) / p.recordBytes ≤ x.length ∧
        x.length ≤ (w.length - p.headerBytes) / p.recordBytes * p.maxRun

/-! ## Delta-frame differencer (44_delta_frame.md) -/

/-- R141: DFINIT makes a context Synced on a copy of the frame, from either state, if its dimensions are
the configured ones. -/
def Obligations.DfinitSetsTheBaseline : Prop :=
  ∀ (c : Ctx) (fa : FReg) (s : State),
    decode ⟨commandWord 0x28 0 (frameIndex fa) 0 0 (contextIndex c) 0, []⟩ = .ok (.dfinit c fa) ∧
    ((s.frame fa).rows = s.cfg.rows c → (s.frame fa).cols = s.cfg.cols c →
      ∃ t, exec (.dfinit c fa) s = .next t ∧ OnlyContext c s t ∧ Answered s t 0 ∧
        t.context c = { synced := true, latest := s.frame fa }) ∧
    ((s.frame fa).rows ≠ s.cfg.rows c ∨ (s.frame fa).cols ≠ s.cfg.cols c →
      exec (.dfinit c fa) s = .next (rejectedWith s 2#3 0x12#32))

/-- R142: DFENC writes the encoded delta to `W[d]` and advances the encoder baseline; its rejections in
their order. -/
def Obligations.DfencEncodesTheDelta : Prop :=
  ∀ (wd : WReg) (fa : FReg) (s : State),
    decode ⟨commandWord 0x29 (streamIndex wd) (frameIndex fa) 0 0 0 0, []⟩ = .ok (.dfenc wd fa) ∧
    (s.wf → s.enc.synced = true → (s.frame fa).rows = s.cfg.rowsE →
      (s.frame fa).cols = s.cfg.colsE → (deltaStream s (s.frame fa)).length ≤ s.cfg.bytesCap →
      ∃ t delta, exec (.dfenc wd fa) s = .next t ∧ Answered s t 0 ∧
        delta.length = s.cfg.rowsE * s.cfg.colsE ∧
        (∀ (k : Nat) (a b : Bool), s.enc.latest.bits[k]? = some a → (s.frame fa).bits[k]? = some b →
          delta[k]? = some (a != b)) ∧
        t.stream wd = rleEncode s.cfg delta ∧
        t.enc = { synced := true, latest := s.frame fa } ∧
        t.cfg = s.cfg ∧ t.frames = s.frames ∧ (∀ r, r ≠ wd → t.stream r = s.stream r) ∧
        t.dec = s.dec ∧ t.input = s.input) ∧
    (s.enc.synced = false → exec (.dfenc wd fa) s = .next (rejectedWith s 4#3 0x31#32)) ∧
    (s.enc.synced = true →
      (s.frame fa).rows ≠ s.cfg.rowsE ∨ (s.frame fa).cols ≠ s.cfg.colsE →
      exec (.dfenc wd fa) s = .next (rejectedWith s 2#3 0x12#32)) ∧
    (s.enc.synced = true → (s.frame fa).rows = s.cfg.rowsE → (s.frame fa).cols = s.cfg.colsE →
      s.cfg.bytesCap < (deltaStream s (s.frame fa)).length →
      exec (.dfenc wd fa) s = .next (rejectedWith s 3#3 0x21#32))

/-- R143: DFDEC xors the decoded delta into the decoder baseline and writes the new frame to `F[d]` too;
its rejections in their order. -/
def Obligations.DfdecAppliesTheDelta : Prop :=
  ∀ (fd : FReg) (wa : WReg) (s : State),
    decode ⟨commandWord 0x2A (frameIndex fd) (streamIndex wa) 0 0 0 0, []⟩ = .ok (.dfdec fd wa) ∧
    (∀ x : List Bool, s.wf → s.dec.synced = true → rleDecode s.cfg (s.stream wa) = .ok x →
      x.length = s.cfg.rowsD * s.cfg.colsD →
      ∃ t, exec (.dfdec fd wa) s = .next t ∧ Answered s t 0 ∧
        (t.frame fd).rows = s.cfg.rowsD ∧ (t.frame fd).cols = s.cfg.colsD ∧ (t.frame fd).wf ∧
        (∀ (k : Nat) (a b : Bool), s.dec.latest.bits[k]? = some a → x[k]? = some b →
          (t.frame fd).bits[k]? = some (a != b)) ∧
        t.dec = { synced := true, latest := t.frame fd } ∧
        t.cfg = s.cfg ∧ (∀ r, r ≠ fd → t.frame r = s.frame r) ∧ t.streams = s.streams ∧
        t.enc = s.enc ∧ t.input = s.input) ∧
    (s.dec.synced = false → exec (.dfdec fd wa) s = .next (rejectedWith s 4#3 0x31#32)) ∧
    (s.dec.synced = true → rleDecode s.cfg (s.stream wa) = .error .shortHeader →
      exec (.dfdec fd wa) s = .next (rejectedWith s 5#3 0x41#32)) ∧
    (s.dec.synced = true → rleDecode s.cfg (s.stream wa) = .error .partialRecord →
      exec (.dfdec fd wa) s = .next (rejectedWith s 5#3 0x42#32)) ∧
    (s.dec.synced = true → rleDecode s.cfg (s.stream wa) = .error .lengthMismatch →
      exec (.dfdec fd wa) s = .next (rejectedWith s 5#3 0x43#32)) ∧
    (∀ x, s.dec.synced = true → rleDecode s.cfg (s.stream wa) = .ok x →
      x.length ≠ s.dec.latest.rows * s.dec.latest.cols →
      exec (.dfdec fd wa) s = .next (rejectedWith s 5#3 0x44#32))

/-- 44_delta_frame.md section of R144, one frame, sender and receiver being two blocks (20_memory.md
R55): a frame encoded by DFENC in one block and decoded by DFDEC in another whose baseline and widths
are equal comes back, and both baselines are that frame afterwards. -/
def Obligations.DeltaRoundTripBetweenBlocks : Prop :=
  ∀ (s r : State) (wd : WReg) (fa : FReg), s.wf → r.wf →
    s.cfg.runWidth = r.cfg.runWidth → s.cfg.sizeWidth = r.cfg.sizeWidth →
    s.enc.synced = true → r.dec.synced = true → s.enc.latest = r.dec.latest →
    (s.frame fa).rows = s.cfg.rowsE → (s.frame fa).cols = s.cfg.colsE →
    (deltaStream s (s.frame fa)).length ≤ s.cfg.bytesCap →
    ∃ t, exec (.dfenc wd fa) s = .next t ∧
      t.enc = { synced := true, latest := s.frame fa } ∧
      ∀ (wa : WReg) (fd : FReg), r.stream wa = t.stream wd →
        ∃ u, exec (.dfdec fd wa) r = .next u ∧ Answered r u 0 ∧ u.frame fd = s.frame fa ∧
          u.dec = { synced := true, latest := s.frame fa }

/-- R144: for any ordered sequence of frames, each delivered once to a decoder that started from the
encoder's baseline, the decoder returns every frame as it was, and both sides end with the last frame
as baseline. -/
def Obligations.DeltaSessionReturnsEveryFrame : Prop :=
  ∀ (s : State) (fa fd : FReg) (wd : WReg) (xs : List MatrixValue), s.wf →
    s.enc.synced = true → s.dec.synced = true → s.enc.latest = s.dec.latest →
    s.cfg.headerBytes + s.cfg.recordBytes * (s.cfg.rowsE * s.cfg.colsE) ≤ s.cfg.bytesCap →
    (∀ x ∈ xs, x.wf ∧ x.rows = s.cfg.rowsE ∧ x.cols = s.cfg.colsE) →
    ∃ u, deliverAll fa fd wd s xs = some (u, xs) ∧ u.enc.synced = true ∧ u.dec.synced = true ∧
      u.enc.latest = xs.getLastD s.enc.latest ∧ u.dec.latest = xs.getLastD s.dec.latest

/-- 44_delta_frame.md section of R145: the decoder cannot tell a stream delivered twice; the second
application undoes the first, with status OK. -/
def Obligations.RepeatedStreamUndoesItself : Prop :=
  ∀ (s t : State) (fd fd' : FReg) (wa : WReg) (x : List Bool), s.wf → s.dec.synced = true →
    rleDecode s.cfg (s.stream wa) = .ok x → x.length = s.cfg.rowsD * s.cfg.colsD →
    exec (.dfdec fd wa) s = .next t →
    ∃ u, exec (.dfdec fd' wa) t = .next u ∧ Answered t u 0 ∧ u.dec = s.dec ∧
      u.frame fd' = s.dec.latest

/-- 44_delta_frame.md section of R146: encoding the frame that is the baseline writes the stream of the
all-zero delta and leaves the baseline as it is. -/
def Obligations.UnchangedFrameGivesZeroDelta : Prop :=
  ∀ (s : State) (wd : WReg) (fa : FReg), s.wf → s.enc.synced = true →
    s.enc.latest = s.frame fa →
    (rleEncode s.cfg (List.replicate (s.cfg.rowsE * s.cfg.colsE) false)).length ≤ s.cfg.bytesCap →
    ∃ t, exec (.dfenc wd fa) s = .next t ∧ Answered s t 0 ∧ t.enc = s.enc ∧
      t.stream wd = rleEncode s.cfg (List.replicate (s.cfg.rowsE * s.cfg.colsE) false)

/-! ## Stream port and control read (45_stream_port_control.md) -/

/-- R160: WCLR empties a wire-stream register. -/
def Obligations.WclrEmptiesTheStream : Prop :=
  ∀ (wd : WReg) (s : State),
    decode ⟨commandWord 0x40 (streamIndex wd) 0 0 0 0 0, []⟩ = .ok (.wclr wd) ∧
    ∃ t, exec (.wclr wd) s = .next t ∧ OnlyStream wd s t ∧ Answered s t 0 ∧ t.stream wd = []

/-- R161: WPUSH appends its byte, or is rejected when the register is full. -/
def Obligations.WpushAppendsOneByte : Prop :=
  ∀ (wd : WReg) (byte : Byte) (s : State),
    decode ⟨commandWord 0x41 (streamIndex wd) 0 0 0 0 byte.toNat, []⟩ = .ok (.wpush wd byte) ∧
    ((s.stream wd).length + 1 ≤ s.cfg.bytesCap →
      ∃ t, exec (.wpush wd byte) s = .next t ∧ OnlyStream wd s t ∧ Answered s t 0 ∧
        t.stream wd = s.stream wd ++ [byte]) ∧
    (s.cfg.bytesCap < (s.stream wd).length + 1 →
      exec (.wpush wd byte) s = .next (rejectedWith s 3#3 0x21#32))

/-- R162 and R163: WLEN answers the length, WGET the byte at the index, zero-extended, or is rejected
past the end. -/
def Obligations.WlenAndWgetRead : Prop :=
  ∀ (wa : WReg) (idx : Word) (s : State),
    decode ⟨commandWord 0x42 0 (streamIndex wa) 0 0 0 0, []⟩ = .ok (.wlen wa) ∧
    decode ⟨commandWord 0x43 0 (streamIndex wa) 0 0 0 0, [idx]⟩ = .ok (.wget wa idx) ∧
    ((s.stream wa).length < 2 ^ 32 →
      ∃ t, exec (.wlen wa) s = .next t ∧ SameBlock s t ∧ Answered s t (s.stream wa).length) ∧
    (∀ b, (s.stream wa)[idx.toNat]? = some b →
      ∃ t, exec (.wget wa idx) s = .next t ∧ SameBlock s t ∧ Answered s t b.toNat) ∧
    ((s.stream wa).length ≤ idx.toNat →
      exec (.wget wa idx) s = .next (rejectedWith s 1#3 0x05#32))

/-- R164: RDCR answers the parameters and the two synced flags; an index above 6 is rejected by
decoding. -/
def Obligations.RdcrReadsControlRegisters : Prop :=
  (∀ k : Byte, (k.toNat ≤ 6 → decode ⟨commandWord 0x48 0 0 0 0 0 k.toNat, []⟩ = .ok (.rdcr k)) ∧
    (6 < k.toNat → decode ⟨commandWord 0x48 0 0 0 0 0 k.toNat, []⟩ = .error .badCr)) ∧
  ∀ s : State, s.cfg.legal = true →
    (∃ t, exec (.rdcr 0#8) s = .next t ∧ SameBlock s t ∧ Answered s t s.cfg.runWidth) ∧
    (∃ t, exec (.rdcr 1#8) s = .next t ∧ SameBlock s t ∧ Answered s t s.cfg.sizeWidth) ∧
    (∃ t, exec (.rdcr 2#8) s = .next t ∧ SameBlock s t ∧ Answered s t s.cfg.rowsE) ∧
    (∃ t, exec (.rdcr 3#8) s = .next t ∧ SameBlock s t ∧ Answered s t s.cfg.colsE) ∧
    (∃ t, exec (.rdcr 4#8) s = .next t ∧ SameBlock s t ∧ Answered s t s.cfg.rowsD) ∧
    (∃ t, exec (.rdcr 5#8) s = .next t ∧ SameBlock s t ∧ Answered s t s.cfg.colsD) ∧
    ∃ t, exec (.rdcr 6#8) s = .next t ∧ SameBlock s t ∧
      Answered s t (s.enc.synced.toNat + 2 * s.dec.synced.toNat)
end

