-- ==== Sys2Proof/Laws/Bytes.lean ====
section
/-! SUPPORT. The bytes, lengths and bounds of little-endian fields and packed bits. -/

namespace Sys2Proof.Machine

@[simp] theorem leBytes_length (n x : Nat) : (leBytes n x).length = n := by
  induction n generalizing x with
  | zero => rfl
  | succ n ih => simp [leBytes, ih]

/-- Byte `k` of a little-endian field (00_scope.md R10). -/
theorem leBytes_getElem? {n k : Nat} (x : Nat) (h : k < n) :
    (leBytes n x)[k]? = some (BitVec.ofNat 8 (x / 2 ^ (8 * k) % 256)) := by
  induction n generalizing x k with
  | zero => omega
  | succ n ih =>
    cases k with
    | zero => simp [leBytes, ← BitVec.toNat_inj]
    | succ k =>
      rw [leBytes, List.getElem?_cons_succ, ih _ (by omega), Nat.div_div_eq_div_mul, Nat.mul_succ,
        Nat.pow_add, Nat.mul_comm]

@[simp] theorem leValue_nil : leValue [] = 0 := rfl

@[simp] theorem leValue_cons (b : Byte) (bs : List Byte) :
    leValue (b :: bs) = b.toNat + 256 * leValue bs := rfl

theorem leValue_lt (bs : List Byte) : leValue bs < 256 ^ bs.length := by
  induction bs with
  | nil => simp
  | cons b bs ih =>
    have hb := b.isLt
    rw [leValue_cons, List.length_cons, Nat.pow_succ]
    omega

@[simp] theorem bitsValue_nil : bitsValue [] = 0 := rfl

@[simp] theorem bitsValue_cons (b : Bool) (bs : List Bool) :
    bitsValue (b :: bs) = b.toNat + 2 * bitsValue bs := rfl

theorem bitsValue_lt (bs : List Bool) : bitsValue bs < 2 ^ bs.length := by
  induction bs with
  | nil => simp
  | cons b bs ih =>
    have hb : b.toNat < 2 := by cases b <;> decide
    rw [bitsValue_cons, List.length_cons, Nat.pow_succ]
    omega

/-- `packBits` gives exactly `ceil(n / 8)` bytes. -/
@[simp] theorem packBits_length (s : List Bool) :
    (packBits s).length = packedLength s.length := by
  simp [packBits]

end Sys2Proof.Machine
end

