-- ==== Sys2Proof/Laws/Encoding.lean ====
section
/-! SUPPORT. Fields and command words determine each other; register, context and bit fields are read back as written. -/

namespace Sys2Proof

@[simp] theorem FReg.ofField_field (r : FReg) : FReg.ofField r.field = r := by cases r <;> rfl
@[simp] theorem FReg.field_ofField (x : BitVec 2) : (FReg.ofField x).field = x := by
  revert x; decide
@[simp] theorem WReg.ofField_field (r : WReg) : WReg.ofField r.field = r := by cases r <;> rfl
@[simp] theorem WReg.field_ofField (x : BitVec 2) : (WReg.ofField x).field = x := by
  revert x; decide
@[simp] theorem Ctx.ofField_field (c : Ctx) : Ctx.ofField c.field = c := by cases c <;> rfl
@[simp] theorem Ctx.field_ofField (x : BitVec 1) : (Ctx.ofField x).field = x := by
  revert x; decide
@[simp] theorem bitOfField_fieldOfBit (b : Bool) : bitOfField (fieldOfBit b) = b := by cases b <;> rfl
@[simp] theorem fieldOfBit_bitOfField (x : BitVec 1) : fieldOfBit (bitOfField x) = x := by
  revert x; decide

/-- Every opcode is found under its number. -/
@[simp] theorem Opcode.ofByte_code (o : Opcode) : Opcode.ofByte o.code = some o := by
  cases o <;> rfl

/-- An opcode found under a number has that number. -/
theorem Opcode.code_of_ofByte {b : BitVec 8} {o : Opcode} (h : Opcode.ofByte b = some o) :
    o.code = b := by
  have := List.find?_some h
  simpa using this

/-! ### Fields and words -/

@[simp] theorem fieldsOf_wordOf (f : Fields) : fieldsOf (wordOf f) = f := by
  obtain ⟨op, rd, ra, rb, v, c, imm8, reserved⟩ := f
  simp only [fieldsOf, wordOf, Fields.mk.injEq]
  refine ⟨?_, ?_, ?_, ?_, ?_, ?_, ?_, ?_⟩ <;>
  · apply BitVec.eq_of_getElem_eq
    intro i hi
    simp only [BitVec.getElem_extractLsb', BitVec.getLsbD_append]
    interval_cases i <;> simp [BitVec.getLsbD_eq_getElem]

@[simp] theorem wordOf_fieldsOf (w : Word) : wordOf (fieldsOf w) = w := by
  apply BitVec.eq_of_getLsbD_eq
  intro i hi
  simp only [fieldsOf, wordOf, BitVec.getLsbD_append, BitVec.getLsbD_extractLsb']
  interval_cases i <;> simp

/-- The word of a command carries its opcode's number. -/
@[simp] theorem Instr.fields_op (i : Instr) : i.fields.op = i.opcode.code := by cases i <;> rfl

/-- The word of a command has 0 in every field its opcode does not use. -/
@[simp] theorem Instr.fields_unusedZero (i : Instr) : i.fields.unusedZero i.opcode.uses = true := by
  cases i <;> rfl

/-! ### The decoder's checks -/

theorem takeK0_ok {ops : List Word} {i : Except DecodeError Instr} {j : Instr} :
    takeK0 ops i = .ok j ↔ ops = [] ∧ i = .ok j := by
  unfold takeK0; split <;> simp_all

theorem takeK1_ok {ops : List Word} {k : Word → Instr} {j : Instr} :
    takeK1 ops k = .ok j ↔ ∃ a, ops = [a] ∧ k a = j := by
  unfold takeK1; split <;> simp_all

theorem takeK2_ok {ops : List Word} {k : Word → Word → Instr} {j : Instr} :
    takeK2 ops k = .ok j ↔ ∃ a b, ops = [a, b] ∧ k a b = j := by
  unfold takeK2; split <;> simp_all

theorem takeK4_ok {ops : List Word} {k : Word → Word → Word → Word → Instr} {j : Instr} :
    takeK4 ops k = .ok j ↔ ∃ a b c d, ops = [a, b, c, d] ∧ k a b c d = j := by
  unfold takeK4; split <;> simp_all

theorem takeK6_ok {ops : List Word} {k : Word → Word → Word → Word → Word → Word → Instr}
    {j : Instr} :
    takeK6 ops k = .ok j ↔ ∃ a b c d e f, ops = [a, b, c, d, e, f] ∧ k a b c d e f = j := by
  unfold takeK6; split <;> simp_all

theorem takeCr_ok {k : Byte} {j : Instr} : takeCr k = .ok j ↔ k.toNat ≤ 6 ∧ .rdcr k = j := by
  unfold takeCr; split <;> simp_all

/-- A transaction decodes to a command exactly when its opcode is assigned, the fields the opcode does
not use are 0, and the operands assemble. -/
theorem decode_ok_iff {t : Transaction} {i : Instr} :
    decode t = .ok i ↔ ∃ o, Opcode.ofByte (fieldsOf t.command).op = some o ∧
      (fieldsOf t.command).unusedZero o.uses = true ∧
      assemble o (fieldsOf t.command) t.operands = .ok i := by
  unfold decode
  constructor
  · intro h
    split at h
    · cases h
    · rename_i o ho
      split at h
      · exact ⟨o, ho, by assumption, h⟩
      · cases h
  · rintro ⟨o, ho, hu, ha⟩
    simp [ho, hu, ha]

/-- Which fields are 0 when the fields an opcode does not use are 0. -/
theorem Fields.unusedZero_iff {f : Fields} {u : UsedFields} :
    f.unusedZero u = true ↔ f.reserved = 0#8 ∧ (u.rd = false → f.rd = 0#2) ∧
      (u.ra = false → f.ra = 0#2) ∧ (u.rb = false → f.rb = 0#2) ∧ (u.v = false → f.v = 0#1) ∧
      (u.c = false → f.c = 0#1) ∧ (u.imm8 = false → f.imm8 = 0#8) := by
  obtain ⟨rd, ra, rb, v, c, imm8⟩ := u
  cases rd <;> cases ra <;> cases rb <;> cases v <;> cases c <;> cases imm8 <;>
    simp [unusedZero, and_assoc]

end Sys2Proof
end

