-- ==== Sys2Proof/Laws/Matrix.lean ====
section
/-! SUPPORT. Matrix values: what the checked accesses can do, and the bit counts of results. -/

namespace Sys2Proof.Machine

@[simp] theorem MatrixValue.inBounds_iff {m : MatrixValue} {row col : Nat} :
    m.inBounds row col = true ↔ row < m.rows ∧ col < m.cols := by simp [inBounds]

/-- An index in bounds lies below `rows × cols`. -/
theorem MatrixValue.index_lt {m : MatrixValue} {row col : Nat} (hr : row < m.rows)
    (hc : col < m.cols) : m.index row col < m.rows * m.cols := by
  unfold index
  calc row * m.cols + col < row * m.cols + m.cols := by omega
    _ = (row + 1) * m.cols := by ring
    _ ≤ m.rows * m.cols := Nat.mul_le_mul_right _ hr

/-- What `BitAt` can answer. -/
theorem MatrixValue.bitAt_cases (m : MatrixValue) (row col : Nat) :
    (row < m.rows ∧ col < m.cols ∧ m.bitAt row col = .ok (m.bit (m.index row col))) ∨
      (¬ (row < m.rows ∧ col < m.cols) ∧ m.bitAt row col = .error .oobMatrix) := by
  by_cases h : row < m.rows ∧ col < m.cols
  · exact .inl ⟨h.1, h.2, by simp [bitAt, h]⟩
  · exact .inr ⟨h, by simp only [bitAt, inBounds_iff, if_neg h]⟩

/-- What `WithBit` can answer. -/
theorem MatrixValue.withBit_cases (m : MatrixValue) (row col : Nat) (v : Bool) :
    (row < m.rows ∧ col < m.cols ∧
        m.withBit row col v = .ok { m with bits := m.bits.set (m.index row col) v }) ∨
      (¬ (row < m.rows ∧ col < m.cols) ∧ m.withBit row col v = .error .oobMatrix) := by
  by_cases h : row < m.rows ∧ col < m.cols
  · exact .inl ⟨h.1, h.2, by simp [withBit, h]⟩
  · exact .inr ⟨h, by simp only [withBit, inBounds_iff, if_neg h]⟩

@[simp] theorem MatrixValue.zero_rows (r c : Nat) : (zero r c).rows = r := rfl
@[simp] theorem MatrixValue.zero_cols (r c : Nat) : (zero r c).cols = c := rfl
@[simp] theorem MatrixValue.zero_bits (r c : Nat) :
    (zero r c).bits = List.replicate (r * c) false := rfl

@[simp] theorem MatrixValue.sameDims_iff {a b : MatrixValue} :
    a.sameDims b = true ↔ a.rows = b.rows ∧ a.cols = b.cols := by simp [sameDims]

/-- `equals` is equality of matrix values (00_scope.md R11). -/
@[simp] theorem MatrixValue.equals_iff {a b : MatrixValue} : a.equals b = true ↔ a = b := by
  cases a; cases b; simp [equals, sameDims, and_assoc]

@[simp] theorem MatrixValue.downsample_rows (m : MatrixValue) (h v : Nat) :
    (m.downsample h v).rows = m.rows / v := rfl
@[simp] theorem MatrixValue.downsample_cols (m : MatrixValue) (h v : Nat) :
    (m.downsample h v).cols = m.cols / h := rfl
@[simp] theorem MatrixValue.downsample_length (m : MatrixValue) (h v : Nat) :
    (m.downsample h v).bits.length = m.rows / v * (m.cols / h) := by simp [downsample]

@[simp] theorem xorBits_length (a b : List Bool) :
    (xorBits a b).length = min a.length b.length := by simp [xorBits]

@[simp] theorem MatrixValue.xor_rows (a b : MatrixValue) : (a.xor b).rows = a.rows := rfl
@[simp] theorem MatrixValue.xor_cols (a b : MatrixValue) : (a.xor b).cols = a.cols := rfl
@[simp] theorem MatrixValue.xor_bits (a b : MatrixValue) :
    (a.xor b).bits = xorBits a.bits b.bits := rfl

/-! ### Windows -/

@[simp] theorem operand_eq_toNat (w : Word) : operand w = w.toNat := rfl

@[simp] theorem bitOperand_eq_toNat (b : Bool) : bitOperand b = b.toNat := rfl

section
variable (sr sc nr nc : Word)

@[simp] theorem windowOf_startRow : (windowOf sr sc nr nc).startRow = sr.toNat := rfl
@[simp] theorem windowOf_startCol : (windowOf sr sc nr nc).startCol = sc.toNat := rfl
@[simp] theorem windowOf_subRows : (windowOf sr sc nr nc).subRows = nr.toNat := rfl
@[simp] theorem windowOf_subCols : (windowOf sr sc nr nc).subCols = nc.toNat := rfl
@[simp] theorem windowOf_cells : (windowOf sr sc nr nc).cells = nr.toNat * nc.toNat := rfl

end

@[simp] theorem Window.inExtent_iff {n : Window} {row col : Nat} :
    n.inExtent row col = true ↔ row < n.subRows ∧ col < n.subCols := by simp [inExtent]

theorem Window.bitAt_inside {n : Window} {m : MatrixValue} {row col : Nat} (hr : row < n.subRows)
    (hc : col < n.subCols) : n.bitAt m row col = m.bitAt (n.startRow + row) (n.startCol + col) := by
  simp [bitAt, hr, hc]

theorem Window.bitAt_outside {n : Window} {m : MatrixValue} {row col : Nat}
    (h : ¬ (row < n.subRows ∧ col < n.subCols)) : n.bitAt m row col = .error .oobView := by
  simp only [bitAt, inExtent_iff, if_neg h]

theorem Window.withBit_inside {n : Window} {m : MatrixValue} {row col : Nat} {v : Bool}
    (hr : row < n.subRows) (hc : col < n.subCols) :
    n.withBit m row col v = m.withBit (n.startRow + row) (n.startCol + col) v := by
  simp [withBit, hr, hc]

theorem Window.withBit_outside {n : Window} {m : MatrixValue} {row col : Nat} {v : Bool}
    (h : ¬ (row < n.subRows ∧ col < n.subCols)) : n.withBit m row col v = .error .oobView := by
  simp only [withBit, inExtent_iff, if_neg h]

/-- A scan that succeeds gives one bit for each cell, in the order visited. -/
theorem Window.scanFrom_ok {n : Window} {m : MatrixValue} {count k : Nat} {bs : List Bool}
    (h : n.scanFrom m count k = .ok bs) :
    bs.length = count ∧
      ∀ j (hj : j < bs.length), n.bitAt m ((k + j) / n.subCols) ((k + j) % n.subCols) = .ok bs[j] := by
  induction count generalizing k bs with
  | zero =>
    obtain rfl : bs = [] := by simpa [scanFrom, eq_comm] using h
    simp
  | succ count ih =>
    unfold scanFrom at h
    split at h
    · cases h
    · rename_i b hb
      split at h
      · cases h
      · rename_i bs' hbs
        obtain rfl : bs = b :: bs' := by simpa [eq_comm] using h
        obtain ⟨hlen, hget⟩ := ih hbs
        refine ⟨by simp [hlen], fun j hj => ?_⟩
        cases j with
        | zero => simpa using hb
        | succ j =>
          have := hget j (by simpa using hj)
          rw [Nat.add_assoc, Nat.add_comm 1 j] at this
          simpa using this

end Sys2Proof.Machine
end

