-- ==== Sys2Proof/Laws/Params.lean ====
section
/-! SUPPORT. What a legal configuration gives. -/

namespace Sys2Proof

@[simp] theorem Config.sizeFits_iff {p : Config} {n : Nat} : p.sizeFits n = true ↔ n < 2 ^ p.sizeWidth := by
  simp [Config.sizeFits]

/-- What a legal configuration gives (00_scope.md R5, R6; 10_state.md R27). -/
theorem Config.legal_iff (p : Config) :
    p.legal = true ↔
      (0 < p.runWidth ∧ p.runWidth % 8 = 0 ∧ p.runWidth < 2 ^ 32) ∧
      (0 < p.sizeWidth ∧ p.sizeWidth % 8 = 0 ∧ p.sizeWidth < 2 ^ 32) ∧
      (∀ c, p.rows c < 2 ^ 32 ∧ p.cols c < 2 ^ 32 ∧ p.rows c * p.cols c ≤ p.bitsCap ∧
        p.rows c * p.cols c < 2 ^ p.sizeWidth) ∧
      p.bitsCap < 2 ^ 32 ∧ p.bytesCap < 2 ^ 32 := by
  simp only [Config.legal, Config.widthLegal, Config.frameLegal, Bool.and_eq_true, decide_eq_true_eq,
    Config.sizeFits_iff]
  constructor
  · rintro ⟨⟨⟨⟨⟨h1, h2⟩, h3⟩, h4⟩, h5⟩, h6⟩
    refine ⟨by tauto, by tauto, fun c => ?_, h5, h6⟩
    cases c
    · tauto
    · tauto
  · rintro ⟨h1, h2, h3, h4, h5⟩
    have he := h3 .enc
    have hd := h3 .dec
    tauto

theorem Config.maxRun_pos (p : Config) : 0 < p.maxRun := Nat.two_pow_pos _

/-- A legal record has a whole number of bytes, at least one. -/
theorem Config.recordBytes_pos {p : Config} (h : p.legal = true) : 0 < p.recordBytes := by
  have := (p.legal_iff.mp h).1
  unfold Config.recordBytes
  omega

theorem Config.recordBytes_mul {p : Config} (h : p.legal = true) : 8 * p.recordBytes = p.runWidth := by
  have := (p.legal_iff.mp h).1
  unfold Config.recordBytes
  omega

theorem Config.headerBytes_mul {p : Config} (h : p.legal = true) :
    8 * p.headerBytes = p.sizeWidth := by
  have := (p.legal_iff.mp h).2.1
  unfold Config.headerBytes
  omega

/-- A record has room for the value bit above the length field. -/
theorem Config.two_mul_maxRun {p : Config} (h : p.legal = true) : 2 * p.maxRun = 2 ^ p.runWidth := by
  have := (p.legal_iff.mp h).1
  unfold Config.maxRun
  rw [← Nat.pow_succ']
  congr 1
  omega

end Sys2Proof
end

