-- ==== Sys2Proof/Laws/State.lean ====
section
/-! SUPPORT. One lemma per field and update of the state, and reading back a register after a write. -/

namespace Sys2Proof.Machine

/-! ### Register files -/

@[simp] theorem FrameFile.get_set_same (f : FrameFile) (r : FReg) (m : MatrixValue) :
    (f.set r m).get r = m := by cases r <;> rfl

theorem FrameFile.get_set_ne (f : FrameFile) {r d : FReg} (h : r ≠ d) (m : MatrixValue) :
    (f.set d m).get r = f.get r := by
  cases r <;> cases d <;> first | rfl | exact absurd rfl h

@[simp] theorem FrameFile.set_get (f : FrameFile) (r : FReg) : f.set r (f.get r) = f := by
  cases r <;> rfl

@[simp] theorem FrameFile.set_set (f : FrameFile) (r : FReg) (m n : MatrixValue) :
    (f.set r m).set r n = f.set r n := by cases r <;> rfl

theorem FrameFile.get_set (f : FrameFile) (r d : FReg) (m : MatrixValue) :
    (f.set d m).get r = if r = d then m else f.get r := by
  by_cases h : r = d
  · subst h; simp
  · simp [h, get_set_ne]

@[simp] theorem StreamFile.get_set_same (f : StreamFile) (r : WReg) (b : List Byte) :
    (f.set r b).get r = b := by cases r <;> rfl

theorem StreamFile.get_set_ne (f : StreamFile) {r d : WReg} (h : r ≠ d) (b : List Byte) :
    (f.set d b).get r = f.get r := by
  cases r <;> cases d <;> first | rfl | exact absurd rfl h

@[simp] theorem StreamFile.set_get (f : StreamFile) (r : WReg) : f.set r (f.get r) = f := by
  cases r <;> rfl

@[simp] theorem StreamFile.set_set (f : StreamFile) (r : WReg) (b c : List Byte) :
    (f.set r b).set r c = f.set r c := by cases r <;> rfl

theorem StreamFile.get_set (f : StreamFile) (r d : WReg) (b : List Byte) :
    (f.set d b).get r = if r = d then b else f.get r := by
  by_cases h : r = d
  · subst h; simp
  · simp [h, get_set_ne]

@[simp] theorem FrameFile.reset_get (r : FReg) : FrameFile.reset.get r = MatrixValue.zero 0 0 := by
  cases r <;> rfl

@[simp] theorem StreamFile.reset_get (r : WReg) : StreamFile.reset.get r = [] := by
  cases r <;> rfl

/-! ### setFrame -/

section
variable (s : State) (d : FReg) (m : MatrixValue)

@[simp] theorem State.setFrame_cfg : (s.setFrame d m).cfg = s.cfg := rfl
@[simp] theorem State.setFrame_frames : (s.setFrame d m).frames = s.frames.set d m := rfl
@[simp] theorem State.setFrame_streams : (s.setFrame d m).streams = s.streams := rfl
@[simp] theorem State.setFrame_enc : (s.setFrame d m).enc = s.enc := rfl
@[simp] theorem State.setFrame_dec : (s.setFrame d m).dec = s.dec := rfl
@[simp] theorem State.setFrame_input : (s.setFrame d m).input = s.input := rfl
@[simp] theorem State.setFrame_responses : (s.setFrame d m).responses = s.responses := rfl
@[simp] theorem State.setFrame_stream (r : WReg) : (s.setFrame d m).stream r = s.stream r := rfl
@[simp] theorem State.setFrame_context (c : Ctx) : (s.setFrame d m).context c = s.context c := by
  cases c <;> rfl
@[simp] theorem State.setFrame_frame_same : (s.setFrame d m).frame d = m :=
  FrameFile.get_set_same s.frames d m
theorem State.setFrame_frame_ne {r : FReg} (h : r ≠ d) : (s.setFrame d m).frame r = s.frame r :=
  FrameFile.get_set_ne s.frames h m

end

/-! ### setStream -/

section
variable (s : State) (d : WReg) (b : List Byte)

@[simp] theorem State.setStream_cfg : (s.setStream d b).cfg = s.cfg := rfl
@[simp] theorem State.setStream_frames : (s.setStream d b).frames = s.frames := rfl
@[simp] theorem State.setStream_streams : (s.setStream d b).streams = s.streams.set d b := rfl
@[simp] theorem State.setStream_enc : (s.setStream d b).enc = s.enc := rfl
@[simp] theorem State.setStream_dec : (s.setStream d b).dec = s.dec := rfl
@[simp] theorem State.setStream_input : (s.setStream d b).input = s.input := rfl
@[simp] theorem State.setStream_responses : (s.setStream d b).responses = s.responses := rfl
@[simp] theorem State.setStream_frame (r : FReg) : (s.setStream d b).frame r = s.frame r := rfl
@[simp] theorem State.setStream_context (c : Ctx) : (s.setStream d b).context c = s.context c := by
  cases c <;> rfl
@[simp] theorem State.setStream_stream_same : (s.setStream d b).stream d = b :=
  StreamFile.get_set_same s.streams d b
theorem State.setStream_stream_ne {r : WReg} (h : r ≠ d) : (s.setStream d b).stream r = s.stream r :=
  StreamFile.get_set_ne s.streams h b

end

/-! ### setContext, setLatest, initialise -/

section
variable (s : State) (c : Ctx) (x : DeltaContext) (m : MatrixValue)

@[simp] theorem State.context_enc : s.context .enc = s.enc := rfl
@[simp] theorem State.context_dec : s.context .dec = s.dec := rfl
@[simp] theorem State.setContext_cfg : (s.setContext c x).cfg = s.cfg := by cases c <;> rfl
@[simp] theorem State.setContext_frames : (s.setContext c x).frames = s.frames := by cases c <;> rfl
@[simp] theorem State.setContext_streams : (s.setContext c x).streams = s.streams := by
  cases c <;> rfl
@[simp] theorem State.setContext_input : (s.setContext c x).input = s.input := by cases c <;> rfl
@[simp] theorem State.setContext_responses : (s.setContext c x).responses = s.responses := by
  cases c <;> rfl
@[simp] theorem State.setContext_frame (r : FReg) : (s.setContext c x).frame r = s.frame r := by
  cases c <;> rfl
@[simp] theorem State.setContext_stream (r : WReg) : (s.setContext c x).stream r = s.stream r := by
  cases c <;> rfl
@[simp] theorem State.setContext_context_same : (s.setContext c x).context c = x := by cases c <;> rfl
theorem State.setContext_context_ne {c' : Ctx} (h : c' ≠ c) :
    (s.setContext c x).context c' = s.context c' := by
  cases c <;> cases c' <;> first | rfl | exact absurd rfl h
@[simp] theorem State.setContext_enc_enc : (s.setContext .enc x).enc = x := rfl
@[simp] theorem State.setContext_enc_dec : (s.setContext .enc x).dec = s.dec := rfl
@[simp] theorem State.setContext_dec_enc : (s.setContext .dec x).enc = s.enc := rfl
@[simp] theorem State.setContext_dec_dec : (s.setContext .dec x).dec = x := rfl

theorem State.setLatest_eq :
    s.setLatest c m = s.setContext c { synced := s.synced c, latest := m } := rfl
theorem State.initialise_eq : s.initialise c m = s.setContext c { synced := true, latest := m } := rfl
@[simp] theorem State.synced_enc : s.synced .enc = s.enc.synced := rfl
@[simp] theorem State.synced_dec : s.synced .dec = s.dec.synced := rfl

end

/-! ### respond -/

section
variable (s : State) (a : Response)

@[simp] theorem State.respond_cfg : (s.respond a).cfg = s.cfg := rfl
@[simp] theorem State.respond_frames : (s.respond a).frames = s.frames := rfl
@[simp] theorem State.respond_streams : (s.respond a).streams = s.streams := rfl
@[simp] theorem State.respond_enc : (s.respond a).enc = s.enc := rfl
@[simp] theorem State.respond_dec : (s.respond a).dec = s.dec := rfl
@[simp] theorem State.respond_input : (s.respond a).input = s.input := rfl
@[simp] theorem State.respond_responses : (s.respond a).responses = s.responses ++ [a] := rfl
@[simp] theorem State.respond_frame (r : FReg) : (s.respond a).frame r = s.frame r := rfl
@[simp] theorem State.respond_stream (r : WReg) : (s.respond a).stream r = s.stream r := rfl
@[simp] theorem State.respond_context (c : Ctx) : (s.respond a).context c = s.context c := by
  cases c <;> rfl

end

/-! ### assertReset -/

section
variable (s : State)

@[simp] theorem State.assertReset_cfg : s.assertReset.cfg = s.cfg := rfl
@[simp] theorem State.assertReset_frames : s.assertReset.frames = FrameFile.reset := rfl
@[simp] theorem State.assertReset_streams : s.assertReset.streams = StreamFile.reset := rfl
@[simp] theorem State.assertReset_enc : s.assertReset.enc = DeltaContext.reset s.cfg .enc := rfl
@[simp] theorem State.assertReset_dec : s.assertReset.dec = DeltaContext.reset s.cfg .dec := rfl
@[simp] theorem State.assertReset_input : s.assertReset.input = s.input := rfl
@[simp] theorem State.assertReset_responses : s.assertReset.responses = s.responses := rfl

end

/-! ### The invariant, register by register -/

theorem State.wf.frame_fits {s : State} (h : s.wf) (r : FReg) : (s.frame r).fits s.cfg := by
  obtain ⟨-, ⟨h0, h1, h2, h3⟩, -⟩ := h
  cases r
  · exact h0
  · exact h1
  · exact h2
  · exact h3

theorem State.wf.stream_fits {s : State} (h : s.wf) (r : WReg) : StreamFits s.cfg (s.stream r) := by
  obtain ⟨-, -, ⟨h0, h1, h2, h3⟩, -⟩ := h
  cases r
  · exact h0
  · exact h1
  · exact h2
  · exact h3

theorem State.wf_of_registers {s : State} (hl : s.cfg.legal = true)
    (hf : ∀ r, (s.frame r).fits s.cfg) (hw : ∀ r, StreamFits s.cfg (s.stream r))
    (he : s.enc.wf s.cfg .enc) (hd : s.dec.wf s.cfg .dec) : s.wf :=
  ⟨hl, ⟨hf .f0, hf .f1, hf .f2, hf .f3⟩, ⟨hw .w0, hw .w1, hw .w2, hw .w3⟩, he, hd⟩

end Sys2Proof.Machine
end

