-- ==== Sys2Proof/Laws/Ops.lean ====
section
/-! SUPPORT. What each shared operation can do, said once. -/

namespace Sys2Proof.Machine

/-! ### Responses -/

/-- `answer` has one outcome: the same block with one OK response more. -/
theorem answer_eq_next {v : Nat} {s t : State} :
    answer v s = .next t ↔ t = s.respond (Response.ok v) := by
  simp [answer, eq_comm]

/-- `reject` has one outcome: the same block with one error response more. -/
theorem reject_eq_next {i : Info} {s t : State} :
    reject i s = .next t ↔ t = s.respond (Response.error i) := by
  simp [reject, eq_comm]

/-- A checked helper either lets the command go on with its value or rejects it in the state given. -/
theorem orReject_cases {α : Type} (x : Except Info α) (s : State) (k : α → Result) :
    (∃ a, x = .ok a ∧ orReject x s k = k a) ∨ (∃ i, x = .error i ∧ orReject x s k = reject i s) := by
  cases x with
  | ok a => exact .inl ⟨a, rfl, rfl⟩
  | error i => exact .inr ⟨i, rfl, rfl⟩

@[simp] theorem orReject_ok {α : Type} (a : α) (s : State) (k : α → Result) :
    orReject (.ok a) s k = k a := rfl

@[simp] theorem orReject_error {α : Type} (i : Info) (s : State) (k : α → Result) :
    orReject (.error i) s k = reject i s := rfl

@[simp] theorem Response.ok_status (v : Nat) : (Response.ok v).status = 0#3 := rfl

theorem Response.ok_value {v : Nat} (h : v < 2 ^ 32) : (Response.ok v).value.toNat = v := by
  simpa [Response.ok] using Nat.mod_eq_of_lt h

/-- The status of an error is never OK. -/
theorem Response.error_status_ne (i : Info) : (Response.error i).status ≠ 0#3 := by
  cases i <;> decide

/-- Different errors give different responses. -/
theorem Response.error_injective {i j : Info} (h : Response.error i = Response.error j) : i = j := by
  revert h; cases i <;> cases j <;> decide

theorem bitOperand_lt (b : Bool) : bitOperand b < 2 := by cases b <;> decide

theorem operand_lt (w : Word) : operand w < 2 ^ 32 := w.isLt

@[simp] theorem bitsFit_iff {s : State} {n : Nat} : s.bitsFit n = true ↔ n ≤ s.cfg.bitsCap := by
  simp [State.bitsFit]

@[simp] theorem bytesFit_iff {s : State} {n : Nat} : s.bytesFit n = true ↔ n ≤ s.cfg.bytesCap := by
  simp [State.bytesFit]

/-! ### The port -/

/-- The host is silent, or the first thing it presents is taken and the rest stays. -/
theorem takeEvent_cases (s : State) :
    (s.input = [] ∧ takeEvent s = none) ∨
      ∃ e rest, s.input = e :: rest ∧ takeEvent s = some (e, { s with input := rest }) := by
  unfold takeEvent
  cases h : s.input with
  | nil => exact .inl ⟨rfl, rfl⟩
  | cons e rest => exact .inr ⟨e, rest, rfl, rfl⟩

/-- Everything a step can do: refuse an illegal configuration, wait, take a reset, execute a decoded
command, or reject an illegal transaction. -/
theorem step_cases (s : State) :
    (s.cfg.legal = false ∧ step s = .refused .illegalConfiguration) ∨
    (s.cfg.legal = true ∧ s.input = [] ∧ step s = .next s) ∨
    (s.cfg.legal = true ∧ ∃ rest, s.input = .reset :: rest ∧
      step s = .next ({ s with input := rest } : State).assertReset) ∨
    (s.cfg.legal = true ∧ ∃ t rest i, s.input = .command t :: rest ∧ decode t = .ok i ∧
      step s = exec i { s with input := rest }) ∨
    (s.cfg.legal = true ∧ ∃ t rest e, s.input = .command t :: rest ∧ decode t = .error e ∧
      step s = reject (illegalInfo e) { s with input := rest }) := by
  cases hl : s.cfg.legal with
  | false => exact .inl ⟨rfl, by simp [step, hl]⟩
  | true =>
    right
    rcases takeEvent_cases s with ⟨hi, ht⟩ | ⟨e, rest, hi, ht⟩
    · exact .inl ⟨rfl, hi, by simp [step, hl, ht]⟩
    · right
      cases e with
      | reset => exact .inl ⟨rfl, rest, hi, by simp [step, hl, ht]⟩
      | command t =>
        right
        cases hd : decode t with
        | ok i => exact .inl ⟨rfl, t, rest, i, hi, hd, by simp [step, hl, ht, hd]⟩
        | error e => exact .inr ⟨rfl, t, rest, e, hi, hd, by simp [step, hl, ht, hd, rejectIllegal]⟩

end Sys2Proof.Machine
end

