-- ==== Sys2Proof/Laws/PerInstr.lean ====
section
/-! SUPPORT. The family EncodeShape: what the encoder gives for each command, one lemma per constructor. -/

/-- The transaction of a command has the operand words of its opcode's format, and its command word
has the opcode's number and 0 in every field the opcode does not use (30_encoding.md R63, R64). -/
def Sys2Proof.Laws.EncodeShape.Statement (i : Sys2Proof.Instr) : Prop :=
  (Sys2Proof.encode i).operands.length = i.opcode.format.operandWords ∧
    i.fields.op = i.opcode.code ∧ i.fields.unusedZero i.opcode.uses = true

namespace Sys2Proof.Laws.EncodeShape

theorem fnew (fd : FReg) (rows cols : Word) : Statement (.fnew fd rows cols) := ⟨rfl, rfl, rfl⟩
theorem fget (fa : FReg) (row col : Word) : Statement (.fget fa row col) := ⟨rfl, rfl, rfl⟩
theorem fset (fd : FReg) (v : Bool) (row col : Word) : Statement (.fset fd v row col) := ⟨rfl, rfl, rfl⟩
theorem feq (fa fb : FReg) : Statement (.feq fa fb) := ⟨rfl, rfl, rfl⟩
theorem fdown (fd : FReg) (hScale vScale : Word) : Statement (.fdown fd hScale vScale) := ⟨rfl, rfl, rfl⟩
theorem frows (fa : FReg) : Statement (.frows fa) := ⟨rfl, rfl, rfl⟩
theorem fcols (fa : FReg) : Statement (.fcols fa) := ⟨rfl, rfl, rfl⟩
theorem fxor (fd fa fb : FReg) : Statement (.fxor fd fa fb) := ⟨rfl, rfl, rfl⟩
theorem fxora (fd fa : FReg) : Statement (.fxora fd fa) := ⟨rfl, rfl, rfl⟩
theorem vget (fa : FReg) (startRow startCol subRows subCols row col : Word) : Statement (.vget fa startRow startCol subRows subCols row col) := ⟨rfl, rfl, rfl⟩
theorem vset (fd : FReg) (v : Bool) (startRow startCol subRows subCols row col : Word) : Statement (.vset fd v startRow startCol subRows subCols row col) := ⟨rfl, rfl, rfl⟩
theorem vexp (wd : WReg) (fa : FReg) (startRow startCol subRows subCols : Word) : Statement (.vexp wd fa startRow startCol subRows subCols) := ⟨rfl, rfl, rfl⟩
theorem rleenc (wd : WReg) (fa : FReg) : Statement (.rleenc wd fa) := ⟨rfl, rfl, rfl⟩
theorem rledec (fd : FReg) (wa : WReg) : Statement (.rledec fd wa) := ⟨rfl, rfl, rfl⟩
theorem dfinit (c : Ctx) (fa : FReg) : Statement (.dfinit c fa) := ⟨rfl, rfl, rfl⟩
theorem dfenc (wd : WReg) (fa : FReg) : Statement (.dfenc wd fa) := ⟨rfl, rfl, rfl⟩
theorem dfdec (fd : FReg) (wa : WReg) : Statement (.dfdec fd wa) := ⟨rfl, rfl, rfl⟩
theorem wclr (wd : WReg) : Statement (.wclr wd) := ⟨rfl, rfl, rfl⟩
theorem wpush (wd : WReg) (byte : Byte) : Statement (.wpush wd byte) := ⟨rfl, rfl, rfl⟩
theorem wlen (wa : WReg) : Statement (.wlen wa) := ⟨rfl, rfl, rfl⟩
theorem wget (wa : WReg) (idx : Word) : Statement (.wget wa idx) := ⟨rfl, rfl, rfl⟩
theorem rdcr (k : Byte) : Statement (.rdcr k) := ⟨rfl, rfl, rfl⟩

end Sys2Proof.Laws.EncodeShape
end

