-- ==== Sys2Proof/Laws/RunLength.lean ====
section
/-! SUPPORT. Runs: what the shared functions of the codec give on the empty sequence, on one more bit, and how long their results are. -/

namespace Sys2Proof.Machine

@[simp] theorem maximalRuns_nil : maximalRuns [] = [] := rfl

/-- One more bit at the front either lengthens the first run or begins a new one. -/
theorem maximalRuns_cons_cases (b : Bool) (bs : List Bool) :
    (maximalRuns bs = [] ∧ maximalRuns (b :: bs) = [{ value := b, length := 1 }]) ∨
    (∃ r rs, maximalRuns bs = r :: rs ∧ b = r.value ∧
      maximalRuns (b :: bs) = { r with length := r.length + 1 } :: rs) ∨
    (∃ r rs, maximalRuns bs = r :: rs ∧ b ≠ r.value ∧
      maximalRuns (b :: bs) = { value := b, length := 1 } :: r :: rs) := by
  cases h : maximalRuns bs with
  | nil => exact .inl ⟨rfl, by simp [maximalRuns, h]⟩
  | cons r rs =>
    by_cases hb : b = r.value
    · exact .inr (.inl ⟨r, rs, rfl, hb, by simp [maximalRuns, h, hb]⟩)
    · exact .inr (.inr ⟨r, rs, rfl, hb, by simp [maximalRuns, h, hb]⟩)

@[simp] theorem expandRuns_nil : expandRuns [] = [] := rfl

@[simp] theorem expandRuns_cons (r : Run) (rs : List Run) :
    expandRuns (r :: rs) = List.replicate r.length r.value ++ expandRuns rs := by
  simp [expandRuns]

@[simp] theorem expandRuns_append (rs ss : List Run) :
    expandRuns (rs ++ ss) = expandRuns rs ++ expandRuns ss := by
  simp [expandRuns]

@[simp] theorem totalLength_nil : totalLength [] = 0 := rfl

@[simp] theorem totalLength_cons (r : Run) (rs : List Run) :
    totalLength (r :: rs) = r.length + totalLength rs := by simp [totalLength]

@[simp] theorem expandRuns_length (rs : List Run) : (expandRuns rs).length = totalLength rs := by
  induction rs with
  | nil => rfl
  | cons r rs ih => simp [ih]

@[simp] theorem recordBytes_length (p : Config) (r : Run) :
    (recordBytes p r).length = p.recordBytes := by simp [recordBytes]

/-- Every record takes `RB` bytes. -/
theorem flatMap_recordBytes_length (p : Config) (rs : List Run) :
    (rs.flatMap (recordBytes p)).length = rs.length * p.recordBytes := by
  induction rs with
  | nil => simp
  | cons r rs ih => simp [ih, Nat.succ_mul, Nat.add_comm]

/-- A wire stream is the size field and one record for each record run. -/
theorem rleEncode_length (p : Config) (b : List Bool) :
    (rleEncode p b).length = p.headerBytes + (recordRuns p.maxRun b).length * p.recordBytes := by
  simp [rleEncode, records]

@[simp] theorem decodedRuns_length (p : Config) (w : List Byte) (k : Nat) :
    (decodedRuns p w k).length = k := by simp [decodedRuns]

/-- A record never stands for a run of length 0. -/
theorem runOfRecord_length_pos {maxRun : Nat} (h : 0 < maxRun) (r : Nat) :
    0 < (runOfRecord maxRun r).length := by
  simp only [runOfRecord, runLengthOf]
  split <;> omega

/-- A record never stands for a run longer than `MAXRUN`. -/
theorem runOfRecord_length_le {maxRun : Nat} (h : 0 < maxRun) (r : Nat) :
    (runOfRecord maxRun r).length ≤ maxRun := by
  have := Nat.mod_lt r h
  simp only [runOfRecord, runLengthOf]
  split <;> omega

/-- Everything `RleDecode` can answer: the first of its three checks that fails, or the bits of its
records. -/
theorem rleDecode_cases (p : Config) (w : List Byte) :
    (w.length < p.headerBytes ∧ rleDecode p w = .error .shortHeader) ∨
    (p.headerBytes ≤ w.length ∧ (w.length - p.headerBytes) % p.recordBytes ≠ 0 ∧
      rleDecode p w = .error .partialRecord) ∨
    (p.headerBytes ≤ w.length ∧ (w.length - p.headerBytes) % p.recordBytes = 0 ∧
      totalLength (decodedRuns p w ((w.length - p.headerBytes) / p.recordBytes)) ≠
        memRead w 0 p.headerBytes ∧
      rleDecode p w = .error .lengthMismatch) ∨
    (p.headerBytes ≤ w.length ∧ (w.length - p.headerBytes) % p.recordBytes = 0 ∧
      totalLength (decodedRuns p w ((w.length - p.headerBytes) / p.recordBytes)) =
        memRead w 0 p.headerBytes ∧
      rleDecode p w =
        .ok (expandRuns (decodedRuns p w ((w.length - p.headerBytes) / p.recordBytes)))) := by
  by_cases h1 : w.length < p.headerBytes
  · exact .inl ⟨h1, by simp [rleDecode, h1]⟩
  · by_cases h2 : (w.length - p.headerBytes) % p.recordBytes = 0
    · by_cases h3 : totalLength (decodedRuns p w ((w.length - p.headerBytes) / p.recordBytes)) =
          memRead w 0 p.headerBytes
      · exact .inr (.inr (.inr ⟨by omega, h2, h3, by simp [rleDecode, h1, h2, h3]⟩))
      · exact .inr (.inr (.inl ⟨by omega, h2, h3, by simp [rleDecode, h1, h2, h3]⟩))
    · exact .inr (.inl ⟨by omega, h2, by simp [rleDecode, h1, h2]⟩)

end Sys2Proof.Machine
end

