-- ==== Sys2Proof/Tests/Slice0.lean ====
section
/-! SUPPORT. Tests: well-formedness, words written out from the encoding, one step per command on the vectors of 95_test_vectors.md, and for each statement with hypotheses a witness that meets them. -/

namespace Sys2Proof.Tests

open Sys2Proof.Machine

/-! ## Small states -/

/-- A matrix value with its bits written as 0 and 1. -/
def matrix (rows cols : Nat) (bits : List Nat) : MatrixValue :=
  { rows := rows, cols := cols, bits := bits.map fun b => b == 1 }

/-- The frame `A` of 95_test_vectors.md section 2.5. -/
def frameA : MatrixValue := matrix 2 2 [1, 0, 1, 0]

/-- The frame `B` of 95_test_vectors.md section 2.5. -/
def frameB : MatrixValue := matrix 2 2 [1, 1, 0, 1]

/-- The 3×3 frame of 95_test_vectors.md section 2.3. -/
def frame3 : MatrixValue := matrix 3 3 [0, 0, 0, 0, 1, 1, 0, 1, 0]

/-- A block of the reference configuration with both contexts Synced on `A`. -/
def block : State :=
  { State.reset with
    frames := { f0 := frameA, f1 := frameB, f2 := frame3, f3 := matrix 1 4 [0, 1, 1, 1] }
    streams := { w0 := [0x04#8, 0x00#8, 0x01#8, 0x83#8], w1 := [0x03#8, 0x00#8, 0x83#8],
                 w2 := [0x04#8], w3 := [0x04#8, 0x00#8, 0x01#8] }
    enc := { synced := true, latest := frameA }
    dec := { synced := true, latest := frameA } }

/-- The same registers and contexts in an instance that holds 3 bytes and 9 bits. -/
def smallBlock : State :=
  { block with cfg := { Config.ref with bytesCap := 3, bitsCap := 9 } }

/-- The same registers with both contexts Uninitialized. -/
def freshBlock : State :=
  { block with enc := State.reset.enc, dec := State.reset.dec }

/-- `s` with one transaction presented. -/
def present (s : State) (w : Word) (operands : List Word) : State :=
  { s with input := [.command { command := w, operands := operands }] }

/-- The state after one step; the state itself if there is none. -/
def stepped (s : State) : State :=
  match step s with
  | .next t => t
  | .fault _ => s
  | .refused _ => s

/-- The state after one transaction. -/
def after (s : State) (w : Word) (operands : List Word) : State :=
  stepped (present s w operands)

/-! ## Well-formedness -/

theorem test_rdcr_above_six_refused : (Instr.rdcr 7#8).wellFormed = false := by decide

theorem test_rdcr_six_accepted : (Instr.rdcr 6#8).wellFormed = true := by decide

/-! ## Decoding: words written out from R61 and R64 (95_test_vectors.md part 2) -/

theorem test_decode_frame_store :
    decode ⟨0x00000101#32, [0#32, 7#32]⟩ = .ok (.fnew .f1 0#32 7#32) ∧
    decode ⟨0x00000C02#32, [0#32, 1#32]⟩ = .ok (.fget .f3 0#32 1#32) ∧
    decode ⟨0x00004103#32, [0#32, 1#32]⟩ = .ok (.fset .f1 true 0#32 1#32) ∧
    decode ⟨0x00002C04#32, []⟩ = .ok (.feq .f3 .f2) ∧
    decode ⟨0x00000105#32, [0#32, 1#32]⟩ = .ok (.fdown .f1 0#32 1#32) ∧
    decode ⟨0x00000C06#32, []⟩ = .ok (.frows .f3) ∧
    decode ⟨0x00000C07#32, []⟩ = .ok (.fcols .f3) := by decide

theorem test_decode_xor_pipeline :
    decode ⟨0x00003610#32, []⟩ = .ok (.fxor .f2 .f1 .f3) ∧
    decode ⟨0x00000711#32, []⟩ = .ok (.fxora .f3 .f1) := by decide

theorem test_decode_window_export :
    decode ⟨0x00000018#32, [1#32, 2#32, 3#32, 4#32, 5#32, 6#32]⟩ =
      .ok (.vget .f0 1#32 2#32 3#32 4#32 5#32 6#32) ∧
    decode ⟨0x00004019#32, [2#32, 0#32, 1#32, 3#32, 0#32, 2#32]⟩ =
      .ok (.vset .f0 true 2#32 0#32 1#32 3#32 0#32 2#32) ∧
    decode ⟨0x0000011A#32, [0#32, 1#32, 2#32, 3#32]⟩ =
      .ok (.vexp .w1 .f0 0#32 1#32 2#32 3#32) := by decide

theorem test_decode_rle_codec :
    decode ⟨0x00000E20#32, []⟩ = .ok (.rleenc .w2 .f3) ∧
    decode ⟨0x00000321#32, []⟩ = .ok (.rledec .f3 .w0) := by decide

theorem test_decode_delta_frame :
    decode ⟨0x00008428#32, []⟩ = .ok (.dfinit .dec .f1) ∧
    decode ⟨0x00000629#32, []⟩ = .ok (.dfenc .w2 .f1) ∧
    decode ⟨0x00000B2A#32, []⟩ = .ok (.dfdec .f3 .w2) := by decide

theorem test_decode_stream_port :
    decode ⟨0x00000140#32, []⟩ = .ok (.wclr .w1) ∧
    decode ⟨0x00830141#32, []⟩ = .ok (.wpush .w1 0x83#8) ∧
    decode ⟨0x00000C42#32, []⟩ = .ok (.wlen .w3) ∧
    decode ⟨0x00000843#32, [3#32]⟩ = .ok (.wget .w2 3#32) ∧
    decode ⟨0x00060048#32, []⟩ = .ok (.rdcr 6#8) := by decide

/-- 95_test_vectors.md section 2.7. -/
theorem test_decode_bad_opcode :
    decode ⟨0x00000000#32, []⟩ = .error .badOpcode ∧
    decode ⟨0x000000FF#32, []⟩ = .error .badOpcode ∧
    decode ⟨0x00000008#32, []⟩ = .error .badOpcode ∧
    decode ⟨0x010000FF#32, []⟩ = .error .badOpcode := by decide

/-- 95_test_vectors.md section 2.7. -/
theorem test_decode_reserved_bits :
    decode ⟨0x01000004#32, []⟩ = .error .reservedBits ∧
    decode ⟨0x00000104#32, []⟩ = .error .reservedBits ∧
    decode ⟨0x00004001#32, [2#32, 2#32]⟩ = .error .reservedBits ∧
    decode ⟨0x00008029#32, []⟩ = .error .reservedBits ∧
    decode ⟨0x00010040#32, []⟩ = .error .reservedBits ∧
    decode ⟨0x01000001#32, []⟩ = .error .reservedBits := by decide

/-- 95_test_vectors.md section 2.7. -/
theorem test_decode_bad_length_and_index :
    decode ⟨0x00000001#32, []⟩ = .error .badLength ∧
    decode ⟨0x00000001#32, [2#32]⟩ = .error .badLength ∧
    decode ⟨0x00000004#32, [0#32]⟩ = .error .badLength ∧
    decode ⟨0x00000043#32, []⟩ = .error .badLength ∧
    decode ⟨0x00070048#32, [0#32]⟩ = .error .badLength ∧
    decode ⟨0x00070048#32, []⟩ = .error .badCr ∧
    decode ⟨0x00FF0048#32, []⟩ = .error .badCr := by decide

/-- The masks of the opcode map, column by column as opcode_table.json has them. -/
theorem test_masks :
    Opcode.all.map Opcode.mask =
      [0xFFFFFCFF#32, 0xFFFFF3FF#32, 0xFFFFBCFF#32, 0xFFFFC3FF#32, 0xFFFFFCFF#32, 0xFFFFF3FF#32,
        0xFFFFF3FF#32, 0xFFFFC0FF#32, 0xFFFFF0FF#32, 0xFFFFF3FF#32, 0xFFFFBCFF#32, 0xFFFFF0FF#32,
        0xFFFFF0FF#32, 0xFFFFF0FF#32, 0xFFFF73FF#32, 0xFFFFF0FF#32, 0xFFFFF0FF#32, 0xFFFFFCFF#32,
        0xFF00FCFF#32, 0xFFFFF3FF#32, 0xFFFFF3FF#32, 0xFF00FFFF#32] := by decide

theorem test_table_words :
    decodeTableWord 32 0x00004103 = some (.fset .f1 true 0#32 0#32) ∧
    decodeTableWord 32 0x00060048 = some (.rdcr 6#8) ∧
    decodeTableWord 32 0x00000008 = none := by decide

/-- 20_memory.md R44: the low byte of each word first. -/
theorem test_byte_channel :
    Transaction.bytes ⟨0x00004103#32, [0x01020304#32]⟩ =
      [0x03#8, 0x41#8, 0x00#8, 0x00#8, 0x04#8, 0x03#8, 0x02#8, 0x01#8] := by decide

theorem test_assembler_forms :
    (Instr.fset .f1 true 0#32 1#32).assembler = "FSET F1, 1, 0, 1" ∧
    (Instr.dfinit .enc .f0).assembler = "DFINIT ENC, F0" := by decide

/-! ## Formats (00_scope.md R10, 42_window_export.md R115, 43_rle_codec.md R122 to R124) -/

theorem test_pack_bits :
    packBits [true, false, false, false, false, false, false, false, true] = [0x01#8, 0x01#8] ∧
    packBits [true, true, true, false] = [0x07#8] := by decide

theorem test_rle_boundary :
    rleEncode Config.ref (List.replicate 129 false) = [0x81#8, 0x00#8, 0x00#8, 0x01#8] ∧
    rleEncode Config.ref (List.replicate 128 true) = [0x80#8, 0x00#8, 0x80#8] := by decide +kernel

/-- The codes of 60_exceptions.md R171, row by row. -/
theorem test_info_codes :
    [Info.oobMatrix, .oobView, .zeroScale, .sizeField, .oobStream, .operands, .config, .wCap, .fCap,
      .notSynced, .shortHeader, .partialRecord, .lengthMismatch, .frameSize, .badOpcode,
      .reservedBits, .badCr, .badLength].map Response.error =
      [⟨1#3, 0x01#32⟩, ⟨1#3, 0x02#32⟩, ⟨1#3, 0x03#32⟩, ⟨1#3, 0x04#32⟩, ⟨1#3, 0x05#32⟩,
        ⟨2#3, 0x11#32⟩, ⟨2#3, 0x12#32⟩, ⟨3#3, 0x21#32⟩, ⟨3#3, 0x22#32⟩, ⟨4#3, 0x31#32⟩,
        ⟨5#3, 0x41#32⟩, ⟨5#3, 0x42#32⟩, ⟨5#3, 0x43#32⟩, ⟨5#3, 0x44#32⟩, ⟨6#3, 0x51#32⟩,
        ⟨6#3, 0x52#32⟩, ⟨6#3, 0x53#32⟩, ⟨6#3, 0x54#32⟩] := by decide

/-! ## One step per command -/

theorem test_fnew :
    (after block 0x00000101#32 [0#32, 7#32]).frame .f1 = matrix 0 7 [] ∧
    (after block 0x00000101#32 [0x10000#32, 0x10000#32]).responses = [⟨3#3, 0x22#32⟩] := by decide

theorem test_fget :
    (after block 0x00000002#32 [1#32, 0#32]).responses = [⟨0#3, 1#32⟩] ∧
    (after block 0x00000002#32 [0#32, 2#32]).responses = [⟨1#3, 0x01#32⟩] := by decide

theorem test_fset :
    (after block 0x00000003#32 [0#32, 0#32]).frame .f0 = matrix 2 2 [0, 0, 1, 0] ∧
    (after block 0x00004003#32 [2#32, 0#32]).responses = [⟨1#3, 0x01#32⟩] := by decide

theorem test_feq :
    (after block 0x00001004#32 []).responses = [⟨0#3, 0#32⟩] ∧
    (after block 0x00002804#32 []).responses = [⟨0#3, 1#32⟩] := by decide

/-- The 2×4 example of X5. -/
theorem test_fdown :
    (after (block.setFrame .f0 (matrix 2 4 [1, 0, 1, 1, 0, 1, 1, 0])) 0x00000005#32
      [2#32, 1#32]).frame .f0 = matrix 2 2 [1, 1, 0, 1] ∧
    (after block 0x00000005#32 [1#32, 0#32]).responses = [⟨1#3, 0x03#32⟩] := by decide

theorem test_frows_fcols :
    (after block 0x00000C06#32 []).responses = [⟨0#3, 1#32⟩] ∧
    (after block 0x00000C07#32 []).responses = [⟨0#3, 4#32⟩] := by decide

theorem test_fxor :
    (after block 0x00001210#32 []).frame .f2 = matrix 2 2 [0, 1, 1, 1] ∧
    (after block 0x00003210#32 []).responses = [⟨2#3, 0x11#32⟩] := by decide

theorem test_fxora :
    (after block 0x00000411#32 []).frame .f0 = matrix 2 2 [0, 1, 1, 1] ∧
    (after block 0x00000411#32 []).frame .f1 = frameB := by decide

/-- The rows of 95_test_vectors.md section 2.3, on `F[2]`. -/
theorem test_vget :
    (after block 0x00000818#32 [1#32, 1#32, 2#32, 2#32, 1#32, 0#32]).responses = [⟨0#3, 1#32⟩] ∧
    (after block 0x00000818#32 [0xFFFFFFFF#32, 0#32, 2#32, 1#32, 1#32, 0#32]).responses =
      [⟨1#3, 0x01#32⟩] := by decide

theorem test_vset :
    (after block 0x00004219#32 [2#32, 0#32, 1#32, 3#32, 0#32, 2#32]).frame .f2 =
      matrix 3 3 [0, 0, 0, 0, 1, 1, 0, 1, 1] ∧
    (after block 0x00004219#32 [2#32, 0#32, 1#32, 3#32, 1#32, 0#32]).responses =
      [⟨1#3, 0x02#32⟩] := by decide

theorem test_vexp :
    (after block 0x0000091A#32 [0#32, 0#32, 3#32, 3#32]).stream .w1 = [0xB0#8, 0x00#8] ∧
    (after block 0x0000081A#32 [0#32, 1#32, 3#32, 1#32]).stream .w0 = [0x06#8] := by decide

theorem test_rleenc :
    (after block 0x00000D20#32 []).stream .w1 = [0x04#8, 0x00#8, 0x01#8, 0x83#8] ∧
    (after smallBlock 0x00000D20#32 []).responses = [⟨3#3, 0x21#32⟩] := by decide

theorem test_rledec :
    (after block 0x00000121#32 []).frame .f1 = matrix 1 4 [0, 1, 1, 1] ∧
    (after block 0x00000921#32 []).responses = [⟨5#3, 0x41#32⟩] := by decide

theorem test_dfinit :
    (after freshBlock 0x00008428#32 []).dec = { synced := true, latest := frameB } ∧
    (after freshBlock 0x00000828#32 []).responses = [⟨2#3, 0x12#32⟩] := by decide

theorem test_dfenc :
    (after block 0x00000529#32 []).stream .w1 = [0x04#8, 0x00#8, 0x01#8, 0x83#8] ∧
    (after smallBlock 0x00000529#32 []).enc.latest = frameA := by decide

theorem test_dfdec :
    (after block 0x0000022A#32 []).frame .f2 = frameB ∧
    (after block 0x0000062A#32 []).responses = [⟨5#3, 0x44#32⟩] := by decide

theorem test_wclr : (after block 0x00000140#32 []).stream .w1 = [] := by decide

theorem test_wpush :
    (after block 0x00830341#32 []).stream .w3 = [0x04#8, 0x00#8, 0x01#8, 0x83#8] ∧
    (after smallBlock 0x00090141#32 []).responses = [⟨3#3, 0x21#32⟩] := by decide

theorem test_wlen : (after block 0x00000042#32 []).responses = [⟨0#3, 4#32⟩] := by decide

theorem test_wget :
    (after block 0x00000043#32 [3#32]).responses = [⟨0#3, 131#32⟩] ∧
    (after block 0x00000043#32 [4#32]).responses = [⟨1#3, 0x05#32⟩] := by decide

theorem test_rdcr :
    (after block 0x00060048#32 []).responses = [⟨0#3, 3#32⟩] ∧
    (after block 0x00010048#32 []).responses = [⟨0#3, 16#32⟩] := by decide

/-- The interface: the word placed by `withFetchWord` is the one the next step runs. -/
theorem test_fetch_word :
    (stepped (State.reset.withFetchWord 32 0x00010048)).responses = [⟨0#3, 16#32⟩] ∧
    (stepped (State.reset.withFetchWord 32 0x00000002)).responses = [⟨1#3, 0x01#32⟩] := by decide

theorem test_core_steps_the_machine :
    Sys2Proof.core.step = Sys2Proof.Machine.step ∧ Sys2Proof.core.reset = State.reset := ⟨rfl, rfl⟩

/-! ## Witnesses: states and operands that meet the hypotheses of the statements, clause by clause -/

/-- DecodeOfEncodeIsIdentity. -/
theorem witness_DecodeOfEncodeIsIdentity :
    (Instr.rdcr 6#8).wellFormed = true ∧ (Instr.dfinit .dec .f3).wellFormed = true := by decide

/-- DecodedCommandHasOneTransaction. -/
theorem witness_DecodedCommandHasOneTransaction :
    decode ⟨0x00C40341#32, []⟩ = .ok (.wpush .w3 0xC4#8) := by decide

/-- DecodingChecksInOrder, the clauses on `decode`: opcodes 0x08 and 0x49, unused bit 24, no operand
word for WGET, index 7 and 255, index 6. -/
theorem witness_DecodingChecksInOrder :
    (∀ o : Opcode, o.code.toNat ≠ 0x08 ∧ o.code.toNat ≠ 0x49) ∧
    (Opcode.feq.code.toNat = (0x01000004#32).toNat % 256 ∧
      (fieldsOf 0x01000004#32).unusedZero Opcode.feq.uses = false) ∧
    (Opcode.wget.code.toNat = (0x00000043#32).toNat % 256 ∧
      (fieldsOf 0x00000043#32).unusedZero Opcode.wget.uses = true ∧
      ([] : List Word).length ≠ Opcode.wget.format.operandWords) ∧
    (Opcode.rdcr.code.toNat = (0x00070048#32).toNat % 256 ∧
      (fieldsOf 0x00070048#32).unusedZero Opcode.rdcr.uses = true ∧
      ([] : List Word).length = Opcode.rdcr.format.operandWords ∧
      6 < (0x00070048#32).toNat / 2 ^ 16 % 256 ∧ 6 < (0x00FF0048#32).toNat / 2 ^ 16 % 256) ∧
    (Opcode.rdcr.code.toNat = (0x00060048#32).toNat % 256 ∧
      (fieldsOf 0x00060048#32).unusedZero Opcode.rdcr.uses = true ∧
      (0x00060048#32).toNat / 2 ^ 16 % 256 ≤ 6) := by
  refine ⟨fun o => ?_, by decide⟩
  cases o <;> decide

/-- DecodingChecksInOrder, the clauses on `step`. -/
theorem witness_DecodingChecksInOrder_step :
    block.cfg.legal = true ∧
    (present block 0x00000008#32 []).input = .command ⟨0x00000008#32, []⟩ :: [] ∧
    decode ⟨0x00000008#32, []⟩ = .error .badOpcode ∧
    decode ⟨0x00000104#32, []⟩ = .error .reservedBits ∧
    decode ⟨0x00000001#32, [2#32]⟩ = .error .badLength ∧
    decode ⟨0x00070048#32, []⟩ = .error .badCr := by decide

/-- ByteChannelRoundTrip: the last byte of the command word and the first of the second operand word. -/
theorem witness_ByteChannelRoundTrip :
    [0x00004103#32, 0#32, 0x01020304#32][0]? = some 0x00004103#32 ∧
    [0x00004103#32, 0#32, 0x01020304#32][2]? = some 0x01020304#32 ∧ 3 < 4 ∧ 0 < 4 := by decide

/-- StepRunsTheDecodedCommand, EveryTransactionGetsOneResponse. -/
theorem witness_StepRunsTheDecodedCommand :
    block.cfg.legal = true ∧
    (present block 0x00001210#32 []).input = .command ⟨0x00001210#32, []⟩ :: [] ∧
    decode ⟨0x00001210#32, []⟩ = .ok (.fxor .f2 .f0 .f1) := by decide

/-- `block` with reset asserted. -/
def resetAsserted : State := { block with input := [.reset] }

/-- ResetEventRestoresResetState. -/
theorem witness_ResetEventRestoresResetState :
    resetAsserted.cfg.legal = true ∧ resetAsserted.input = .reset :: [] := by decide

/-- SilentHostChangesNothing. -/
theorem witness_SilentHostChangesNothing : block.cfg.legal = true ∧ block.input = [] := by decide

/-- The reference configuration with an encoder frame of `rows` × `cols`. -/
def refFrame (rows cols : Nat) : Config := { Config.ref with rowsE := rows, colsE := cols }

/-- IllegalConfigurationIsRefused: four cells where 4 and where 3 bits fit; 255 and 256 cells with an
8-bit size field. -/
theorem witness_IllegalConfigurationIsRefused :
    ({ Config.ref with bitsCap := 4 } : Config).legal = true ∧
    ({ Config.ref with bitsCap := 3 } : Config).bitsCap < Config.ref.rows .enc * Config.ref.cols .enc ∧
    ({ Config.ref with sizeWidth := 8, rowsD := 15, colsD := 17 } : Config).legal = true ∧
    2 ^ 8 ≤ ({ Config.ref with sizeWidth := 8, rowsD := 16, colsD := 16 } : Config).rows .dec * 16 := by
  decide

/-- IllegalConfigurationIsRefused, the values of each parameter: widths 0, 8 and 12; dimensions and
capacities 2^32 - 1 and 2^32. -/
theorem witness_IllegalConfigurationIsRefused_values :
    ({ Config.ref with runWidth := 0 } : Config).runWidth = 0 ∧
    ({ Config.ref with runWidth := 12 } : Config).runWidth % 8 ≠ 0 ∧
    ({ Config.ref with sizeWidth := 0 } : Config).sizeWidth = 0 ∧
    ({ Config.ref with sizeWidth := 12 } : Config).sizeWidth % 8 ≠ 0 ∧
    ((refFrame (2 ^ 32 - 1) 0).legal = true ∧ 2 ^ 32 ≤ (refFrame (2 ^ 32) 0).rows .enc) ∧
    ((refFrame 0 (2 ^ 32 - 1)).legal = true ∧ 2 ^ 32 ≤ (refFrame 0 (2 ^ 32)).cols .enc) ∧
    (({ Config.ref with bitsCap := 2 ^ 32 - 1, bytesCap := 2 ^ 32 - 1 } : Config).legal = true ∧
      2 ^ 32 ≤ ({ Config.ref with bitsCap := 2 ^ 32 } : Config).bitsCap ∧
      2 ^ 32 ≤ ({ Config.ref with bytesCap := 2 ^ 32 } : Config).bytesCap) := by decide

/-- IllegalConfigurationIsRefused, the last clause: the reference configuration meets it. -/
theorem witness_IllegalConfigurationIsRefused_legal :
    (0 < Config.ref.runWidth ∧ Config.ref.runWidth % 8 = 0 ∧ 0 < Config.ref.sizeWidth ∧
      Config.ref.sizeWidth % 8 = 0 ∧ Config.ref.runWidth < 2 ^ 32 ∧ Config.ref.sizeWidth < 2 ^ 32) ∧
    (∀ c : Ctx, Config.ref.rows c < 2 ^ 32 ∧ Config.ref.cols c < 2 ^ 32 ∧
      Config.ref.rows c * Config.ref.cols c ≤ Config.ref.bitsCap ∧
      Config.ref.rows c * Config.ref.cols c < 2 ^ Config.ref.sizeWidth) ∧
    Config.ref.bitsCap < 2 ^ 32 ∧ Config.ref.bytesCap < 2 ^ 32 := by
  refine ⟨by decide, fun c => ?_, by decide⟩
  cases c <;> decide

/-- ResetIsWellFormed, and every statement about legal configurations. -/
theorem witness_ResetIsWellFormed :
    Config.ref.legal = true ∧
    ({ Config.ref with runWidth := 16, sizeWidth := 8 } : Config).legal = true := by decide

/-- StepKeepsWellFormed. -/
theorem witness_StepKeepsWellFormed :
    (present block 0x00000621#32 []).wf ∧
    step (present block 0x00000621#32 []) = .next (after block 0x00000621#32 []) :=
  ⟨by decide, rfl⟩

/-- RejectedCommandChangesNothing: rejected by the command, and by decoding. -/
theorem witness_RejectedCommandChangesNothing :
    (step (present block 0x0000062A#32 []) = .next (after block 0x0000062A#32 []) ∧
      (after block 0x0000062A#32 []).responses = block.responses ++ [⟨5#3, 0x44#32⟩]) ∧
    (step (present block 0x000000FF#32 []) = .next (after block 0x000000FF#32 []) ∧
      (after block 0x000000FF#32 []).responses = block.responses ++ [⟨6#3, 0x51#32⟩]) ∧
    (5#3 ≠ 0#3 ∧ 6#3 ≠ 0#3) :=
  ⟨⟨rfl, by decide⟩, ⟨rfl, by decide⟩, by decide⟩

/-- ErrorsPerCommand, CommandsChangeOnlyTheirDestinations: a next state, with each kind of register
that is no destination. -/
theorem witness_ErrorsPerCommand :
    (Instr.dfdec .f1 .w0).wellFormed = true ∧
    (∃ t, exec (.dfdec .f1 .w0) block = .next t) ∧
    frameDestination (.dfdec .f1 .w0) ≠ some .f0 ∧ streamDestination (.dfdec .f1 .w0) ≠ some .w0 ∧
    contextDestination (.dfdec .f1 .w0) ≠ some .enc :=
  ⟨by decide, ⟨_, rfl⟩, by decide⟩

/-- BaselinesAreReadByDeltaCommandsOnly. -/
theorem witness_BaselinesAreReadByDeltaCommandsOnly :
    (∀ wd fa, Instr.dfinit .enc .f0 ≠ .dfenc wd fa) ∧
    ∀ fd wa, Instr.dfinit .enc .f0 ≠ .dfdec fd wa :=
  ⟨fun _ _ h => (by cases h), fun _ _ h => (by cases h)⟩

/-- SyncedFallsOnlyByReset. -/
theorem witness_SyncedFallsOnlyByReset :
    step resetAsserted = .next (stepped resetAsserted) ∧ resetAsserted.synced .dec = true ∧
    (stepped resetAsserted).synced .dec = false :=
  ⟨rfl, by decide⟩

/-- ReadsChangeNothing. -/
theorem witness_ReadsChangeNothing :
    isRead (.fget .f0 0#32 0#32) = true ∧ isRead (.rdcr 6#8) = true := by decide

/-- FnewWritesAllFalse: 255 × 257 is exactly the capacity, 256 × 256 is one more. -/
theorem witness_FnewWritesAllFalse :
    (0xFF#32).toNat * (0x101#32).toNat ≤ block.cfg.bitsCap ∧
    block.cfg.bitsCap < (0x100#32).toNat * (0x100#32).toNat := by decide

/-- FgetReadsOneBit and FsetWritesOneBit: the last cell, the first row and the first column out of
range. -/
theorem witness_FgetReadsOneBit :
    ((block.frame .f0).wf ∧ (1#32).toNat < (block.frame .f0).rows ∧
      (1#32).toNat < (block.frame .f0).cols) ∧
    (block.frame .f0).rows ≤ (2#32).toNat ∧ (block.frame .f0).cols ≤ (2#32).toNat := by decide

/-- FeqComparesDimensionsAndBits: equal; other rows; other columns; other bits. -/
theorem witness_FeqComparesDimensionsAndBits :
    ((block.frame .f0).rows = (block.frame .f0).rows ∧
      (block.frame .f0).bits = (block.frame .f0).bits) ∧
    (block.frame .f0).rows ≠ (block.frame .f3).rows ∧
    (block.frame .f0).cols ≠ (block.frame .f2).cols ∧
    (block.frame .f0).bits ≠ (block.frame .f1).bits := by decide

/-- FdownKeepsTopLeftCells: factor 1, the largest factor, and factor 0. -/
theorem witness_FdownKeepsTopLeftCells :
    (block.frame .f2).wf ∧ (1#32).toNat ≠ 0 ∧ (0xFFFFFFFF#32).toNat ≠ 0 ∧
    (0 < (block.frame .f2).rows / (2#32).toNat ∧ 0 < (block.frame .f2).cols / (1#32).toNat) ∧
    (0#32).toNat = 0 := by decide

/-- FrowsAndFcolsAnswerDimensions. -/
theorem witness_FrowsAndFcolsAnswerDimensions : (block.frame .f3).fits block.cfg := by decide

/-- FrameStoreLaws: a cell of a new matrix; the last cell and another one; a sampled cell. -/
theorem witness_FrameStoreLaws :
    ((2#32).toNat * (3#32).toNat ≤ block.cfg.bitsCap ∧ (1#32).toNat < (2#32).toNat ∧
      (2#32).toNat < (3#32).toNat) ∧
    (block.wf ∧ (2#32).toNat < (block.frame .f2).rows ∧ (2#32).toNat < (block.frame .f2).cols ∧
      (1#32 ≠ 2#32 ∨ 2#32 ≠ 2#32)) ∧
    ((2#32).toNat ≠ 0 ∧ (0#32).toNat < ((after block 0x00000205#32 [1#32, 2#32]).frame .f2).rows ∧
      (2#32).toNat < ((after block 0x00000205#32 [1#32, 2#32]).frame .f2).cols ∧
      (0#32).toNat = (0#32).toNat * (2#32).toNat ∧ (2#32).toNat = (2#32).toNat * (1#32).toNat) := by
  decide

/-- FxorWritesBitwiseXor and FxoraXorsInPlace: equal dimensions; other rows; other columns. -/
theorem witness_FxorWritesBitwiseXor :
    ((block.frame .f0).wf ∧ (block.frame .f1).wf ∧
      (block.frame .f0).rows = (block.frame .f1).rows ∧
      (block.frame .f0).cols = (block.frame .f1).cols ∧
      (block.frame .f0).bits[3]? = some false ∧ (block.frame .f1).bits[3]? = some true) ∧
    (block.frame .f0).rows ≠ (block.frame .f3).rows ∧
    (block.frame .f0).cols ≠ (block.frame .f2).cols := by decide

/-- XorLaws. -/
theorem witness_XorLaws :
    frameA.wf ∧ frameB.wf ∧ frameA.rows = frameB.rows ∧ frameA.cols = frameB.cols := by decide

/-- CopyIdiom. -/
theorem witness_CopyIdiom :
    block.wf ∧ FReg.f1 ≠ FReg.f2 ∧ (3#32).toNat = (block.frame .f2).rows ∧
    (3#32).toNat = (block.frame .f2).cols := by decide

/-- VgetReadsThroughWindow and VsetWritesThroughWindow: the last cell of window and matrix; row and
column at the window's edge; row and column past the matrix; the window of the whole matrix. -/
theorem witness_VgetReadsThroughWindow :
    ((block.frame .f2).wf ∧ (1#32).toNat < (2#32).toNat ∧
      (1#32).toNat + (1#32).toNat < (block.frame .f2).rows ∧
      (1#32).toNat + (1#32).toNat < (block.frame .f2).cols) ∧
    (2#32).toNat ≤ (2#32).toNat ∧
    ((1#32).toNat < (2#32).toNat ∧ (block.frame .f2).rows ≤ (2#32).toNat + (1#32).toNat ∧
      (block.frame .f2).cols ≤ (0xFFFFFFFF#32).toNat + (1#32).toNat) ∧
    ((3#32).toNat = (block.frame .f2).rows ∧ (3#32).toNat = (block.frame .f2).cols ∧
      (2#32).toNat < (3#32).toNat) := by decide

/-- VexpPacksTheWindow: a full window of two bytes; an empty window past the matrix; one byte more than
the capacity; a window past the last row and one past the last column. -/
theorem witness_VexpPacksTheWindow :
    ((smallBlock.frame .f2).wf ∧ ((3#32).toNat * (3#32).toNat + 7) / 8 ≤ smallBlock.cfg.bytesCap ∧
      (0#32).toNat + (3#32).toNat ≤ (smallBlock.frame .f2).rows ∧
      (0#32).toNat + (3#32).toNat ≤ (smallBlock.frame .f2).cols) ∧
    (0#32).toNat * (5#32).toNat = 0 ∧
    smallBlock.cfg.bytesCap < ((5#32).toNat * (5#32).toNat + 7) / 8 ∧
    (((3#32).toNat * (8#32).toNat + 7) / 8 ≤ smallBlock.cfg.bytesCap ∧
      0 < (3#32).toNat * (8#32).toNat ∧
      (smallBlock.frame .f2).rows < (1#32).toNat + (3#32).toNat ∧
      (smallBlock.frame .f2).cols < (0#32).toNat + (8#32).toNat) ∧
    ((3#32).toNat * (3#32).toNat ≤ 15 ∧
      (packBits (frame3.bits))[15 / 8]? = some 0x00#8) := by decide

/-- PackBitsPositions: the last bit, and an unused bit of the last byte. -/
theorem witness_PackBitsPositions :
    frame3.bits[8]? = some false ∧ frame3.bits.length ≤ 9 ∧
    (packBits frame3.bits)[9 / 8]? = some 0x00#8 := by decide

/-- The smallest widths: one-byte records and a one-byte size field. -/
def narrow : Config := { Config.ref with sizeWidth := 8 }

/-- SizeFieldIsLittleEndian: the longest sequence an 8-bit size field admits, and its only byte. -/
theorem witness_SizeFieldIsLittleEndian :
    narrow.legal = true ∧ (List.replicate 255 true).length < 2 ^ narrow.sizeWidth ∧
    0 < narrow.headerBytes := by decide +kernel

/-- RecordCodingInverts: lengths 1, 127 and 128, fields 0 and 127. -/
theorem witness_RecordCodingInverts :
    Config.ref.legal = true ∧ 1 ≤ 127 ∧ 127 < Config.ref.maxRun ∧ 128 ≤ Config.ref.maxRun ∧
    0 < Config.ref.maxRun := by decide

/-- MaximalRunsAreTheOnlySplit. -/
theorem witness_MaximalRunsAreTheOnlySplit :
    expandRuns [⟨false, 1⟩, ⟨true, 3⟩] = [false, true, true, true] ∧
    (∀ r ∈ [(⟨false, 1⟩ : Run), ⟨true, 3⟩], 1 ≤ r.length) ∧
    [(⟨false, 1⟩ : Run), ⟨true, 3⟩].IsChain fun r r' => r.value ≠ r'.value := by
  refine ⟨by decide, by decide, by simp⟩

/-- StreamingEncoderComputesRecords. -/
theorem witness_StreamingEncoderComputesRecords :
    Config.ref.legal = true ∧ [false, true, true, true] ≠ [] := by decide

/-- A block whose `F[0]` holds 256 bits, one more than its size field can count, and whose wire-stream
registers hold 3 bytes. -/
def wideBlock : State :=
  { smallBlock with
    cfg := { narrow with bytesCap := 3 }
    frames := { smallBlock.frames with
      f0 := MatrixValue.zero 16 16, f1 := MatrixValue.zero 15 17 } }

/-- RleencWritesTheStream: 255 bits and exactly 3 bytes; 256 bits; one byte too many. -/
theorem witness_RleencWritesTheStream :
    ((wideBlock.frame .f1).bits.length < 2 ^ wideBlock.cfg.sizeWidth ∧
      (rleEncode wideBlock.cfg (wideBlock.frame .f1).bits).length = wideBlock.cfg.bytesCap) ∧
    2 ^ wideBlock.cfg.sizeWidth ≤ (wideBlock.frame .f0).bits.length ∧
    ((smallBlock.frame .f3).bits.length < 2 ^ smallBlock.cfg.sizeWidth ∧
      smallBlock.cfg.bytesCap < (rleEncode smallBlock.cfg (smallBlock.frame .f3).bits).length) := by
  decide +kernel

/-- DecoderExpandsAnyRecords: two records of the same value, one of the greatest length; and a size
field that is one short. -/
theorem witness_DecoderExpandsAnyRecords :
    Config.ref.legal = true ∧
    (∀ r ∈ [(⟨true, 1⟩ : Run), ⟨true, 128⟩], 1 ≤ r.length ∧ r.length ≤ Config.ref.maxRun) ∧
    129 < 2 ^ Config.ref.sizeWidth ∧
    129 = ([(⟨true, 1⟩ : Run), ⟨true, 128⟩].map Run.length).sum ∧
    128 ≠ ([(⟨true, 1⟩ : Run), ⟨true, 128⟩].map Run.length).sum := by decide

/-- MalformedStreamsAreRejected: one byte where the size field takes two; one byte after the size field
with two-byte records; one-byte records. -/
theorem witness_MalformedStreamsAreRejected :
    Config.ref.legal = true ∧ [0x04#8].length < Config.ref.headerBytes ∧
    (({ narrow with runWidth := 16 } : Config).legal = true ∧
      ({ narrow with runWidth := 16 } : Config).headerBytes ≤ [0x01#8, 0x01#8].length ∧
      ([0x01#8, 0x01#8].length - ({ narrow with runWidth := 16 } : Config).headerBytes) %
        ({ narrow with runWidth := 16 } : Config).recordBytes ≠ 0) ∧
    Config.ref.recordBytes = 1 := by decide

/-- RledecWritesOneRow: each outcome of the decoder, and a result at and above the capacity. -/
theorem witness_RledecWritesOneRow :
    rleDecode smallBlock.cfg (smallBlock.stream .w0) = .ok [false, true, true, true] ∧
    rleDecode smallBlock.cfg [0x09#8, 0x00#8, 0x09#8] = .ok (List.replicate 9 false) ∧
    rleDecode smallBlock.cfg [0x0A#8, 0x00#8, 0x0A#8] = .ok (List.replicate 10 false) ∧
    (smallBlock.cfg.bitsCap = 9 ∧ smallBlock.cfg.bitsCap < (List.replicate 10 false).length) ∧
    rleDecode smallBlock.cfg (smallBlock.stream .w2) = .error .shortHeader ∧
    rleDecode { narrow with runWidth := 16 } [0x01#8, 0x01#8] = .error .partialRecord ∧
    rleDecode smallBlock.cfg (smallBlock.stream .w3) = .error .lengthMismatch := by decide

/-- RleRoundTrip. -/
theorem witness_RleRoundTrip :
    block.wf ∧ (block.frame .f2).bits.length < 2 ^ block.cfg.sizeWidth ∧
    (rleEncode block.cfg (block.frame .f2).bits).length ≤ block.cfg.bytesCap := by decide

/-- StreamSizeBounds. -/
theorem witness_StreamSizeBounds :
    Config.ref.legal = true ∧
    rleDecode Config.ref [0x04#8, 0x00#8, 0x81#8, 0x81#8, 0x82#8] = .ok [true, true, true, true] := by
  decide

/-- DfinitSetsTheBaseline: the configured dimensions, with an Uninitialized context; other rows; other
columns. -/
theorem witness_DfinitSetsTheBaseline :
    ((freshBlock.frame .f1).rows = freshBlock.cfg.rows .dec ∧
      (freshBlock.frame .f1).cols = freshBlock.cfg.cols .dec) ∧
    (block.frame .f3).rows ≠ block.cfg.rows .enc ∧
    (block.frame .f3).cols ≠ block.cfg.cols .enc := by decide

/-- DfencEncodesTheDelta: encoded; not Synced; other dimensions; one byte too many. -/
theorem witness_DfencEncodesTheDelta :
    (block.wf ∧ block.enc.synced = true ∧ (block.frame .f1).rows = block.cfg.rowsE ∧
      (block.frame .f1).cols = block.cfg.colsE ∧
      (deltaStream block (block.frame .f1)).length ≤ block.cfg.bytesCap ∧
      block.enc.latest.bits[3]? = some false ∧ (block.frame .f1).bits[3]? = some true) ∧
    freshBlock.enc.synced = false ∧
    ((block.frame .f3).rows ≠ block.cfg.rowsE ∧ (block.frame .f2).cols ≠ block.cfg.colsE) ∧
    (smallBlock.enc.synced = true ∧ (smallBlock.frame .f1).rows = smallBlock.cfg.rowsE ∧
      (smallBlock.frame .f1).cols = smallBlock.cfg.colsE ∧
      smallBlock.cfg.bytesCap < (deltaStream smallBlock (smallBlock.frame .f1)).length) := by decide

/-- DfdecAppliesTheDelta and RepeatedStreamUndoesItself: decoded; not Synced; the decoder's errors;
three bits for a frame of four. -/
theorem witness_DfdecAppliesTheDelta :
    (block.wf ∧ block.dec.synced = true ∧
      rleDecode block.cfg (block.stream .w0) = .ok [false, true, true, true] ∧
      [false, true, true, true].length = block.cfg.rowsD * block.cfg.colsD ∧
      ∃ t, exec (.dfdec .f1 .w0) block = .next t) ∧
    freshBlock.dec.synced = false ∧
    rleDecode block.cfg (block.stream .w2) = .error .shortHeader ∧
    rleDecode block.cfg (block.stream .w3) = .error .lengthMismatch ∧
    (rleDecode block.cfg (block.stream .w1) = .ok [true, true, true] ∧
      [true, true, true].length ≠ block.dec.latest.rows * block.dec.latest.cols) :=
  ⟨⟨by decide, by decide, by decide, by decide, ⟨_, rfl⟩⟩, by decide⟩

/-- DfdecAppliesTheDelta: a stream that ends inside a record, with two-byte records. -/
theorem witness_DfdecAppliesTheDelta_partial :
    ({ block with cfg := { narrow with runWidth := 16 } } : State).dec.synced = true ∧
    rleDecode { narrow with runWidth := 16 } (block.stream .w0 ++ [0x01#8, 0x02#8]) =
      .error .partialRecord := by decide

/-- A receiver with other capacities than `block`. -/
def receiver : State := { block with cfg := { Config.ref with bytesCap := 4, bitsCap := 9 } }

/-- DeltaRoundTripBetweenBlocks. -/
theorem witness_DeltaRoundTripBetweenBlocks :
    block.wf ∧ receiver.wf ∧
    block.cfg.runWidth = receiver.cfg.runWidth ∧ block.cfg.sizeWidth = receiver.cfg.sizeWidth ∧
    block.enc.synced = true ∧ receiver.dec.synced = true ∧
    block.enc.latest = receiver.dec.latest ∧ (block.frame .f1).rows = block.cfg.rowsE ∧
    (block.frame .f1).cols = block.cfg.colsE ∧
    (deltaStream block (block.frame .f1)).length ≤ block.cfg.bytesCap ∧
    receiver.stream .w0 = (after block 0x00000529#32 []).stream .w1 := by decide

/-- DeltaSessionReturnsEveryFrame. -/
theorem witness_DeltaSessionReturnsEveryFrame :
    block.wf ∧ block.enc.synced = true ∧ block.dec.synced = true ∧
    block.enc.latest = block.dec.latest ∧
    block.cfg.headerBytes + block.cfg.recordBytes * (block.cfg.rowsE * block.cfg.colsE) ≤
      block.cfg.bytesCap ∧
    ∀ x ∈ [frameB, frameB, frameA], x.wf ∧ x.rows = block.cfg.rowsE ∧ x.cols = block.cfg.colsE := by
  decide

/-- UnchangedFrameGivesZeroDelta. -/
theorem witness_UnchangedFrameGivesZeroDelta :
    block.wf ∧ block.enc.synced = true ∧ block.enc.latest = block.frame .f0 ∧
    (rleEncode block.cfg
      (List.replicate (block.cfg.rowsE * block.cfg.colsE) false)).length ≤ block.cfg.bytesCap := by
  decide

/-- WpushAppendsOneByte: one byte below the capacity and at the capacity. -/
theorem witness_WpushAppendsOneByte :
    (after smallBlock 0x00000241#32 []).stream .w2 = [0x04#8, 0x00#8] ∧
    [0x04#8, 0x00#8].length + 1 ≤ smallBlock.cfg.bytesCap ∧
    smallBlock.cfg.bytesCap < (smallBlock.stream .w3).length + 1 := by decide

/-- WlenAndWgetRead: the last byte, and the first index past the end. -/
theorem witness_WlenAndWgetRead :
    (block.stream .w0).length < 2 ^ 32 ∧ (block.stream .w0)[(3#32).toNat]? = some 0x83#8 ∧
    (block.stream .w0).length ≤ (4#32).toNat := by decide

/-- RdcrReadsControlRegisters: the last index that is a control register, and the first that is not. -/
theorem witness_RdcrReadsControlRegisters :
    (6#8).toNat ≤ 6 ∧ 6 < (7#8).toNat ∧ block.cfg.legal = true := by decide

end Sys2Proof.Tests
end

