-- ==== Sys2Proof/Proofs/Scope.lean ====
section
/-! PROOFS. The scope of the model (00_scope.md): which configurations have a meaning. -/

namespace Sys2Proof

/-- The two conditions of 00_scope.md R6 on the configured frame of either context. -/
theorem Config.frame_fits_of_legal {p : Config} (h : p.legal = true) (c : Ctx) :
    p.rows c * p.cols c ≤ p.bitsCap ∧ p.rows c * p.cols c < 2 ^ p.sizeWidth := by
  obtain ⟨-, -, hframes, -, -⟩ := p.legal_iff.mp h
  obtain ⟨-, -, hbits, hsize⟩ := hframes c
  exact ⟨hbits, hsize⟩

namespace Machine

/-- Legality is looked at before the input, so the refusal holds whatever the host presents. -/
theorem step_refused_of_not_legal {s : State} (h : ¬ s.cfg.legal = true) :
    step s = .refused .illegalConfiguration :=
  if_neg h

/-- Settles O12: the refused values are those that `Config.legal_iff` shuts out one by one, and its
converse direction gives the last clause. -/
theorem illegalConfigurationIsRefused : Obligations.IllegalConfigurationIsRefused := by
  refine ⟨fun p hlegal c => Config.frame_fits_of_legal hlegal c, fun s c hbad => ?refused,
    fun p hrun hrun8 hsize hsize8 hrunMax hsizeMax hframes hbitsCap hbytesCap => ?legal⟩
  case refused =>
    refine step_refused_of_not_legal fun hlegal => ?_
    obtain ⟨hrun, hsize, hframes, hbitsCap, hbytesCap⟩ := s.cfg.legal_iff.mp hlegal
    obtain ⟨hrows, hcols, hbits, hcount⟩ := hframes c
    omega
  case legal =>
    exact p.legal_iff.mpr
      ⟨⟨hrun, hrun8, hrunMax⟩, ⟨hsize, hsize8, hsizeMax⟩, hframes, hbitsCap, hbytesCap⟩

end Machine
end Sys2Proof
end

