-- ==== Sys2Proof/Proofs/ResetState.lean ====
section
/-! PROOFS. The state after reset (10_state.md R33), and what a command that only answers does to the block (60_exceptions.md R172). -/

namespace Sys2Proof.Machine

/-! ### Commands that only answer -/

/-- A response is no piece of the block (10_state.md R28). -/
theorem sameBlock_respond (s : State) (a : Response) : SameBlock s (s.respond a) :=
  ⟨rfl, rfl, rfl, rfl, rfl, rfl⟩

/-- The value of an OK response is the value answered when a word holds it. -/
theorem answered_respond_ok (s : State) {v : Nat} (h : v < 2 ^ 32) :
    Answered s (s.respond (Response.ok v)) v :=
  ⟨(Response.ok v).value, Response.ok_value h, rfl⟩

theorem answer_sameBlock_answered (s : State) {v : Nat} (h : v < 2 ^ 32) :
    ∃ t, answer v s = .next t ∧ SameBlock s t ∧ Answered s t v :=
  ⟨_, rfl, sameBlock_respond s _, answered_respond_ok s h⟩

/-- FROWS (40_frame_store.md R86). -/
theorem exec_frows (fa : FReg) (s : State) : exec (.frows fa) s = answer (s.frame fa).rows s := rfl

/-- WLEN (45_stream_port_control.md R162). -/
theorem exec_wlen (wa : WReg) (s : State) : exec (.wlen wa) s = answer (s.stream wa).length s := rfl

/-! ### The block right after reset -/

section
variable (p : Config)

@[simp] theorem DeltaContext.reset_synced (c : Ctx) : (DeltaContext.reset p c).synced = false := rfl

/-- The baseline of R33, which no command can read before the first DFINIT. -/
@[simp] theorem DeltaContext.reset_latest (c : Ctx) :
    (DeltaContext.reset p c).latest = MatrixValue.zero (p.rows c) (p.cols c) := rfl

@[simp] theorem State.resetOf_frame (r : FReg) :
    (State.resetOf p).frame r = MatrixValue.zero 0 0 := FrameFile.reset_get r

@[simp] theorem State.resetOf_stream (r : WReg) : (State.resetOf p).stream r = [] :=
  StreamFile.reset_get r

@[simp] theorem State.resetOf_context (c : Ctx) :
    (State.resetOf p).context c = DeltaContext.reset p c := by cases c <;> rfl

@[simp] theorem State.resetOf_synced (c : Ctx) : (State.resetOf p).synced c = false := by
  simp [State.synced]

/-- `CR[6]` shows the two synced flags, both low. -/
theorem State.resetOf_syncRegister : (State.resetOf p).syncRegister = 0 := rfl

end

/-- Settles O10: the registers, the contexts and the control registers are read from `State.resetOf`,
and FROWS and WLEN answer the 0 they find there, which a word holds. -/
theorem resetStateValues : Obligations.ResetStateValues := by
  intro p
  refine ⟨State.resetOf_frame p, State.resetOf_stream p, fun c => ?contexts, rfl, rfl, rfl, rfl, rfl, rfl,
    congrArg some (State.resetOf_syncRegister p), fun fa => ?frows, fun wa => ?wlen⟩
  case contexts => simp
  case frows =>
    rw [exec_frows, State.resetOf_frame]
    exact answer_sameBlock_answered _ (by decide)
  case wlen =>
    rw [exec_wlen, State.resetOf_stream]
    exact answer_sameBlock_answered _ (by decide)

end Sys2Proof.Machine
end

