-- ==== Sys2Proof/Proofs/DecodingChecks.lean ====
section
/-! PROOFS. The four decoding checks in their order (30_encoding.md R65): what the decoder answers at each, and that a legal transaction is determined by its command. -/

namespace Sys2Proof

/-! ### Fields as numbers -/

theorem fieldsOf_op_toNat (w : Word) : (fieldsOf w).op.toNat = w.toNat % 256 := by
  simp [fieldsOf, BitVec.extractLsb'_toNat]

theorem fieldsOf_imm8_toNat (w : Word) : (fieldsOf w).imm8.toNat = w.toNat / 2 ^ 16 % 256 := by
  simp [fieldsOf, BitVec.extractLsb'_toNat, Nat.shiftRight_eq_div_pow]

/-- The low byte of a command word is the number of at most one opcode, and it is found. -/
theorem Opcode.ofByte_op_eq_some_iff {w : Word} {o : Opcode} :
    Opcode.ofByte (fieldsOf w).op = some o ↔ o.code.toNat = w.toNat % 256 := by
  rw [← fieldsOf_op_toNat, BitVec.toNat_inj]
  constructor
  · exact Opcode.code_of_ofByte
  · intro h
    rw [← h, Opcode.ofByte_code]

/-- The fields `f` as a command of opcode `o` has them: the opcode's number, the used fields as they
stand in `f`, and 0 in all others (30_encoding.md R64). -/
def Fields.usedBy (f : Fields) (o : Opcode) : Fields :=
  { op := o.code
    rd := if o.uses.rd then f.rd else 0#2
    ra := if o.uses.ra then f.ra else 0#2
    rb := if o.uses.rb then f.rb else 0#2
    v := if o.uses.v then f.v else 0#1
    c := if o.uses.c then f.c else 0#1
    imm8 := if o.uses.imm8 then f.imm8 else 0#8
    reserved := 0#8 }

/-- Fields that pass checks 1 and 2 lose nothing when the unused ones are put to 0. -/
theorem Fields.usedBy_eq_self {f : Fields} {o : Opcode} (hop : o.code = f.op)
    (hzero : f.unusedZero o.uses = true) : f.usedBy o = f := by
  obtain ⟨hreserved, hrd, hra, hrb, hv, hc, himm8⟩ := Fields.unusedZero_iff.mp hzero
  obtain ⟨op, rd, ra, rb, v, c, imm8, reserved⟩ := f
  simp only [usedBy, Fields.mk.injEq, ite_eq_left_iff, Bool.not_eq_true]
  exact ⟨hop, fun h => (hrd h).symm, fun h => (hra h).symm, fun h => (hrb h).symm,
    fun h => (hv h).symm, fun h => (hc h).symm, fun h => (himm8 h).symm, hreserved.symm⟩

/-! ### Check 3: the number of operand words -/

section
variable {ops : List Word}

theorem takeK0_of_length_ne {i : Except DecodeError Instr} (h : ops.length ≠ 0) :
    takeK0 ops i = .error .badLength := by
  unfold takeK0; split <;> simp_all

theorem takeK1_of_length_ne {k : Word → Instr} (h : ops.length ≠ 1) :
    takeK1 ops k = .error .badLength := by
  unfold takeK1; split <;> simp_all

theorem takeK2_of_length_ne {k : Word → Word → Instr} (h : ops.length ≠ 2) :
    takeK2 ops k = .error .badLength := by
  unfold takeK2; split <;> simp_all

theorem takeK4_of_length_ne {k : Word → Word → Word → Word → Instr} (h : ops.length ≠ 4) :
    takeK4 ops k = .error .badLength := by
  unfold takeK4; split <;> simp_all

theorem takeK6_of_length_ne {k : Word → Word → Word → Word → Word → Word → Instr}
    (h : ops.length ≠ 6) : takeK6 ops k = .error .badLength := by
  unfold takeK6; split <;> simp_all

theorem assemble_of_length_ne {o : Opcode} {f : Fields} (h : ops.length ≠ o.format.operandWords) :
    assemble o f ops = .error .badLength := by
  cases o with
  | fnew | fget | fset | fdown => exact takeK2_of_length_ne h
  | vget | vset => exact takeK6_of_length_ne h
  | vexp => exact takeK4_of_length_ne h
  | wget => exact takeK1_of_length_ne h
  | feq | frows | fcols | fxor | fxora | rleenc | rledec | dfinit | dfenc | dfdec | wclr | wpush
  | wlen | rdcr => exact takeK0_of_length_ne h

/-! ### Check 4 and the command read -/

theorem assemble_rdcr_of_index_gt {f : Fields} (hlen : ops.length = Opcode.rdcr.format.operandWords)
    (h : 6 < f.imm8.toNat) : assemble .rdcr f ops = .error .badCr := by
  obtain rfl := List.length_eq_zero_iff.mp hlen
  exact if_neg (by omega)

/-- What passes checks 3 and 4 is assembled into the command that has this opcode, these operand words
and, in its word, these used fields. -/
theorem assemble_ok_of_checks {o : Opcode} {f : Fields}
    (hlen : ops.length = o.format.operandWords) (hcr : o = .rdcr → f.imm8.toNat ≤ 6) :
    ∃ i, assemble o f ops = .ok i ∧ i.opcode = o ∧ i.operandWords = ops ∧ i.fields = f.usedBy o := by
  cases o with
  | fnew | fget | fset | fdown =>
    obtain ⟨a, b, rfl⟩ := List.length_eq_two.mp hlen
    exact ⟨_, rfl, rfl, rfl, by simp [Instr.fields, blankFields, Fields.usedBy, Opcode.uses]⟩
  | vget | vset =>
    match ops, hlen with
    | [_, _, _, _, _, _], _ =>
      exact ⟨_, rfl, rfl, rfl, by simp [Instr.fields, blankFields, Fields.usedBy, Opcode.uses]⟩
  | vexp =>
    obtain ⟨a, b, c, d, rfl⟩ := List.length_eq_four.mp hlen
    exact ⟨_, rfl, rfl, rfl, by simp [Instr.fields, blankFields, Fields.usedBy, Opcode.uses]⟩
  | wget =>
    obtain ⟨a, rfl⟩ := List.length_eq_one_iff.mp hlen
    exact ⟨_, rfl, rfl, rfl, by simp [Instr.fields, blankFields, Fields.usedBy, Opcode.uses]⟩
  | feq | frows | fcols | fxor | fxora | rleenc | rledec | dfinit | dfenc | dfdec | wclr | wpush
  | wlen =>
    obtain rfl := List.length_eq_zero_iff.mp hlen
    exact ⟨_, rfl, rfl, rfl, by simp [Instr.fields, blankFields, Fields.usedBy, Opcode.uses]⟩
  | rdcr =>
    obtain rfl := List.length_eq_zero_iff.mp hlen
    exact ⟨_, takeCr_ok.mpr ⟨hcr rfl, rfl⟩, rfl, rfl, rfl⟩

/-- Nothing is assembled that fails check 3 or 4. -/
theorem checks_of_assemble_ok {o : Opcode} {f : Fields} {i : Instr} (h : assemble o f ops = .ok i) :
    ops.length = o.format.operandWords ∧ (o = .rdcr → f.imm8.toNat ≤ 6) := by
  have hlen : ops.length = o.format.operandWords := by
    by_contra hne
    rw [assemble_of_length_ne hne] at h
    cases h
  refine ⟨hlen, ?_⟩
  rintro rfl
  by_contra hgt
  rw [assemble_rdcr_of_index_gt hlen (by omega)] at h
  cases h

end

/-! ### The decoder -/

section
variable {t : Transaction} {o : Opcode}

theorem decode_of_unassigned (h : ∀ o : Opcode, o.code.toNat ≠ t.command.toNat % 256) :
    decode t = .error .badOpcode := by
  have hnone : Opcode.ofByte (fieldsOf t.command).op = none :=
    Option.eq_none_iff_forall_ne_some.mpr fun o ho => h o (Opcode.ofByte_op_eq_some_iff.mp ho)
  simp [decode, hnone]

theorem decode_of_not_unusedZero (hop : o.code.toNat = t.command.toNat % 256)
    (hzero : (fieldsOf t.command).unusedZero o.uses = false) : decode t = .error .reservedBits := by
  simp [decode, Opcode.ofByte_op_eq_some_iff.mpr hop, hzero]

/-- After checks 1 and 2 the decoder assembles. -/
theorem decode_eq_assemble (hop : o.code.toNat = t.command.toNat % 256)
    (hzero : (fieldsOf t.command).unusedZero o.uses = true) :
    decode t = assemble o (fieldsOf t.command) t.operands := by
  simp [decode, Opcode.ofByte_op_eq_some_iff.mpr hop, hzero]

/-- A transaction that decodes is the encoding of the command read: its operand words are the
command's, and its word has no bit that the command's fields do not give. -/
theorem encode_of_decode_ok {i : Instr} (h : decode t = .ok i) : encode i = t := by
  obtain ⟨o, hop, hzero, hi⟩ := decode_ok_iff.mp h
  obtain ⟨hlen, hcr⟩ := checks_of_assemble_ok hi
  obtain ⟨j, hj, -, hwords, hfields⟩ := assemble_ok_of_checks hlen hcr
  obtain rfl : j = i := Except.ok.inj (hj.symm.trans hi)
  rw [Fields.usedBy_eq_self (Opcode.code_of_ofByte hop) hzero] at hfields
  rw [encode, hfields, hwords, wordOf_fieldsOf]

end

namespace Machine

/-- The status of every decoding error is IllegalCommand, code 6 (60_exceptions.md R170, R171). -/
theorem rejectIllegal_eq (e : DecodeError) (s : State) :
    rejectIllegal e s =
      .next (rejectedWith s 6#3 (BitVec.ofNat 32 (illegalInfo e).code)) := by
  cases e <;> rfl

/-- A transaction that decoding rejects is taken and answered, whatever its error. -/
theorem step_of_decode_error {s : State} {t : Transaction} {rest : List HostEvent} {e : DecodeError}
    (hlegal : s.cfg.legal = true) (hinput : s.input = .command t :: rest)
    (hdecode : decode t = .error e) :
    step s = .next (rejectedWith { s with input := rest } 6#3
      (BitVec.ofNat 32 (illegalInfo e).code)) := by
  simp [step, takeEvent, hlegal, hinput, hdecode, rejectIllegal_eq]

/-- Settles O3: each check is a lemma about `decode`, every decoding error is answered by the one lemma
`step_of_decode_error`, and two transactions of one command are both its encoding. -/
theorem decodingChecksInOrder : Obligations.DecodingChecksInOrder := by
  refine ⟨fun t => ⟨decode_of_unassigned, fun o hop => ⟨decode_of_not_unusedZero hop,
    fun hzero hlen => ?length, fun hzero hlen hrdcr hindex => ?index, fun hzero hlen hcr => ?legal⟩⟩,
    fun s t rest hlegal hinput => ?rejections, fun t t' i h h' => ?unique⟩
  case length => rw [decode_eq_assemble hop hzero, assemble_of_length_ne hlen]
  case index =>
    subst hrdcr
    rw [← fieldsOf_imm8_toNat] at hindex
    rw [decode_eq_assemble hop hzero, assemble_rdcr_of_index_gt hlen hindex]
  case legal =>
    rw [← fieldsOf_imm8_toNat] at hcr
    obtain ⟨i, hi, hopcode, -, -⟩ := assemble_ok_of_checks hlen hcr
    exact ⟨i, (decode_eq_assemble hop hzero).trans hi, hopcode⟩
  case rejections =>
    have answered (e : DecodeError) := step_of_decode_error (e := e) hlegal hinput
    exact ⟨answered .badOpcode, answered .reservedBits, answered .badLength, answered .badCr⟩
  case unique => exact (encode_of_decode_ok h).symm.trans (encode_of_decode_ok h')

end Machine
end Sys2Proof
end

/-! PROOFS. The frame store (40_frame_store.md): command words as sums of fields, the cells of a matrix
under a write and a downsampling, and what FNEW FGET FSET FEQ FDOWN FROWS FCOLS do. -/

namespace Sys2Proof

/-! ### Command words as sums of fields (30_encoding.md R61) -/

theorem toNat_append_eq_add {n m : Nat} (x : BitVec n) (y : BitVec m) :
    (x ++ y).toNat = x.toNat * 2 ^ m + y.toNat := by
  rw [BitVec.toNat_append, ← Nat.shiftLeft_add_eq_or_of_lt y.isLt, Nat.shiftLeft_eq]

/-- The word that has its fields side by side is the sum of the fields at their positions. -/
theorem wordOf_eq_commandWord {f : Fields} (h : f.reserved = 0#8) :
    wordOf f = Machine.commandWord f.op.toNat f.rd.toNat f.ra.toNat f.rb.toNat f.v.toNat f.c.toNat
      f.imm8.toNat := by
  apply BitVec.eq_of_toNat_eq
  have hlt := (wordOf f).isLt
  simp only [wordOf, toNat_append_eq_add, h, BitVec.toNat_ofNat, Machine.commandWord] at hlt ⊢
  omega

/-- The operands of a command assemble from its own fields and operand words. -/
theorem assemble_fields {i : Instr} (h : i.wellFormed = true) :
    assemble i.opcode i.fields i.operandWords = .ok i := by
  cases i with
  | rdcr k => exact takeCr_ok.mpr ⟨of_decide_eq_true h, rfl⟩
  | _ => simp [Instr.opcode, Instr.fields, Instr.operandWords, assemble, takeK0, takeK1, takeK2, takeK4,
      takeK6]

/-- A command is decoded from the sum of its fields and its operand words. -/
theorem decode_commandWord {i : Instr} (h : i.wellFormed = true) :
    decode ⟨Machine.commandWord i.opcode.code.toNat i.fields.rd.toNat i.fields.ra.toNat
      i.fields.rb.toNat i.fields.v.toNat i.fields.c.toNat i.fields.imm8.toNat, i.operandWords⟩ =
      .ok i := by
  obtain ⟨hreserved, -⟩ := Fields.unusedZero_iff.mp i.fields_unusedZero
  rw [← Instr.fields_op, ← wordOf_eq_commandWord hreserved]
  exact decode_ok_iff.mpr ⟨i.opcode, by simp, by simp, by simpa using assemble_fields h⟩

namespace Machine

theorem frameIndex_eq_field (r : FReg) : frameIndex r = r.field.toNat := by cases r <;> rfl

theorem toNat_eq_fieldOfBit (b : Bool) : b.toNat = (fieldOfBit b).toNat := by cases b <;> rfl

/-! ### The cells of a matrix (00_scope.md R11, 40_frame_store.md R80) -/

namespace MatrixValue

section
variable {m : MatrixValue} {row col : Nat}

/-- A position with its column in range is read back from its row-major index. -/
theorem index_div (hc : col < m.cols) : m.index row col / m.cols = row := by
  rw [index, Nat.mul_comm, Nat.mul_add_div (by omega), Nat.div_eq_of_lt hc, Nat.add_zero]

theorem index_mod (hc : col < m.cols) : m.index row col % m.cols = col :=
  Nat.mul_add_mod_of_lt hc

/-- A stored bit is the bit that `bit` reads, which has no default value in range. -/
theorem getElem?_index (hwf : m.wf) (hr : row < m.rows) (hc : col < m.cols) :
    m.bits[m.index row col]? = some (m.bit (m.index row col)) := by
  have hk : m.index row col < m.bits.length := hwf ▸ index_lt hr hc
  rw [bit, List.getD_eq_getElem _ _ hk, List.getElem?_eq_getElem hk]

theorem bitAt_inside (hr : row < m.rows) (hc : col < m.cols) :
    m.bitAt row col = .ok (m.bit (m.index row col)) := by
  simp [bitAt, hr, hc]

theorem bitAt_outside (h : ¬ (row < m.rows ∧ col < m.cols)) : m.bitAt row col = .error .oobMatrix := by
  simp only [bitAt, inBounds_iff, if_neg h]

end

/-- Every cell of `Zero(r, c)` is false. -/
theorem zero_bitAt {r c row col : Nat} (hr : row < r) (hc : col < c) :
    (zero r c).bitAt row col = .ok false := by
  have hk := index_lt (m := zero r c) hr hc
  rw [bitAt_inside (m := zero r c) hr hc, bit, zero_bits]
  exact congrArg Except.ok (List.getD_replicate _ hk)

/-! ### A write of one cell -/

/-- The matrix value that `WithBit` gives in bounds (`withBit_inside`). -/
def setBit (m : MatrixValue) (row col : Nat) (v : Bool) : MatrixValue :=
  { m with bits := m.bits.set (m.index row col) v }

section
variable {m : MatrixValue} {row col : Nat} {v : Bool}

theorem withBit_inside (hr : row < m.rows) (hc : col < m.cols) :
    m.withBit row col v = .ok (m.setBit row col v) := by
  simp [withBit, setBit, hr, hc]

theorem withBit_outside (h : ¬ (row < m.rows ∧ col < m.cols)) :
    m.withBit row col v = .error .oobMatrix := by
  simp only [withBit, inBounds_iff, if_neg h]

@[simp] theorem setBit_rows : (m.setBit row col v).rows = m.rows := rfl
@[simp] theorem setBit_cols : (m.setBit row col v).cols = m.cols := rfl

theorem setBit_getElem?_same (hwf : m.wf) (hr : row < m.rows) (hc : col < m.cols) :
    (m.setBit row col v).bits[m.index row col]? = some v :=
  List.getElem?_set_self (hwf ▸ index_lt hr hc)

theorem setBit_getElem?_ne {k : Nat} (h : k ≠ m.index row col) :
    (m.setBit row col v).bits[k]? = m.bits[k]? :=
  List.getElem?_set_ne h.symm

theorem setBit_bitAt_same (hwf : m.wf) (hr : row < m.rows) (hc : col < m.cols) :
    (m.setBit row col v).bitAt row col = .ok v := by
  rw [bitAt_inside (m := m.setBit row col v) hr hc, bit, List.getD_eq_getElem?_getD]
  exact congrArg (fun b => Except.ok (b.getD false)) (setBit_getElem?_same hwf hr hc)

/-- A write does not show at another position: in range the row-major index tells positions apart, and
out of range the dimensions, which the write keeps, decide. -/
theorem setBit_bitAt_ne {row' col' : Nat} (hc : col < m.cols) (h : row' ≠ row ∨ col' ≠ col) :
    (m.setBit row col v).bitAt row' col' = m.bitAt row' col' := by
  by_cases hin : row' < m.rows ∧ col' < m.cols
  · obtain ⟨hr', hc'⟩ := hin
    have hk : m.index row' col' ≠ m.index row col := fun heq => by
      have hrow : row' = row := by rw [← index_div (row := row') hc', heq, index_div hc]
      have hcol : col' = col := by rw [← index_mod (row := row') hc', heq, index_mod hc]
      exact h.elim (· hrow) (· hcol)
    rw [bitAt_inside hr' hc', bitAt_inside (m := m.setBit row col v) hr' hc', bit, bit,
      List.getD_eq_getElem?_getD, List.getD_eq_getElem?_getD]
    exact congrArg (fun b => Except.ok (b.getD false)) (setBit_getElem?_ne hk)
  · rw [bitAt_outside hin, bitAt_outside (m := m.setBit row col v) hin]

end

/-! ### Comparison -/

/-- `equals` compares both dimensions and the bits (40_frame_store.md R84). -/
theorem equals_iff_fields {a b : MatrixValue} :
    a.equals b = true ↔ a.rows = b.rows ∧ a.cols = b.cols ∧ a.bits = b.bits := by
  simp only [equals, Bool.and_eq_true, sameDims_iff, decide_eq_true_eq, and_assoc]

/-! ### Downsampling -/

section
variable {m : MatrixValue} {h v r c : Nat}

theorem downsample_wf : (m.downsample h v).wf := downsample_length m h v

/-- The top-left cell of a block lies in the matrix: block `j` of `n / k` begins below `n`. -/
theorem blockStart_lt {n k j : Nat} (hj : j < n / k) : j * k < n := by
  have hk : 0 < k := Nat.pos_of_ne_zero fun h0 => by simp [h0] at hj
  exact Nat.lt_of_div_lt_div (by rwa [Nat.mul_div_cancel _ hk])

/-- A cell of the downsampled matrix is the top-left cell of its block (40_frame_store.md R85). -/
theorem downsample_bit (hr : r < m.rows / v) (hc : c < m.cols / h) :
    (m.downsample h v).bit ((m.downsample h v).index r c) = m.bit (m.index (r * v) (c * h)) := by
  have hk := index_lt (m := m.downsample h v) hr hc
  have hdiv : (m.downsample h v).index r c / (m.cols / h) = r := index_div hc
  have hmod : (m.downsample h v).index r c % (m.cols / h) = c := index_mod hc
  rw [bit, List.getD_eq_getElem _ _ (by rwa [downsample_wf])]
  simp only [downsample, List.getElem_map, List.getElem_range] at hdiv hmod ⊢
  rw [hdiv, hmod]

theorem downsample_getElem? (hwf : m.wf) (hr : r < m.rows / v) (hc : c < m.cols / h) :
    (m.downsample h v).bits[(m.downsample h v).index r c]? = m.bits[m.index (r * v) (c * h)]? := by
  rw [getElem?_index (m := m.downsample h v) downsample_wf hr hc, downsample_bit hr hc,
    getElem?_index hwf (blockStart_lt hr) (blockStart_lt hc)]

theorem downsample_bitAt (hr : r < m.rows / v) (hc : c < m.cols / h) :
    (m.downsample h v).bitAt r c = m.bitAt (r * v) (c * h) := by
  rw [bitAt_inside (m := m.downsample h v) hr hc, downsample_bit hr hc,
    bitAt_inside (blockStart_lt hr) (blockStart_lt hc)]

end

end MatrixValue

/-! ### Outcomes of commands -/

/-- A command that writes a frame register and answers 0 does nothing else. -/
theorem answer_setFrame (s : State) (d : FReg) (m : MatrixValue) :
    ∃ t, answer 0 (s.setFrame d m) = .next t ∧ OnlyFrame d s t ∧ Answered s t 0 ∧ t.frame d = m :=
  ⟨_, rfl, ⟨rfl, fun _ hr => State.setFrame_frame_ne s d m hr, rfl, rfl, rfl, rfl⟩,
    answered_respond_ok (s.setFrame d m) (by decide), State.setFrame_frame_same s d m⟩

/-- The response of a command that reads one cell, from what `BitAt` answers (`exec_fget`). -/
def bitResponse : Except Info Bool → Response
  | .ok b => Response.ok b.toNat
  | .error i => Response.error i

/-! ### The commands -/

section
variable {s : State} {fd : FReg} {rows cols : Word}

theorem exec_fnew_of_fits (h : rows.toNat * cols.toNat ≤ s.cfg.bitsCap) :
    exec (.fnew fd rows cols) s =
      answer 0 (s.setFrame fd (MatrixValue.zero rows.toNat cols.toNat)) :=
  if_pos (bitsFit_iff.mpr h)

theorem exec_fnew_of_exceeds (h : s.cfg.bitsCap < rows.toNat * cols.toNat) :
    exec (.fnew fd rows cols) s = reject .fCap s :=
  if_neg fun hfits => absurd (bitsFit_iff.mp hfits) h.not_ge

end

/-- FGET answers what `BitAt` does, and its response depends on the frame register alone. -/
theorem exec_fget (fa : FReg) (row col : Word) (s : State) :
    exec (.fget fa row col) s =
      .next (s.respond (bitResponse ((s.frame fa).bitAt row.toNat col.toNat))) := by
  change orReject _ s _ = _
  cases (s.frame fa).bitAt row.toNat col.toNat with
  | ok b => rfl
  | error i => rfl

theorem exec_fget_of_bitAt {fa : FReg} {row col : Word} {s : State} {b : Bool}
    (h : (s.frame fa).bitAt row.toNat col.toNat = .ok b) :
    ∃ t, exec (.fget fa row col) s = .next t ∧ SameBlock s t ∧ Answered s t b.toNat := by
  rw [exec_fget, h]
  exact answer_sameBlock_answered s ((bitOperand_lt b).trans (by decide))

theorem exec_fset (fd : FReg) (v : Bool) (row col : Word) (s : State) :
    exec (.fset fd v row col) s =
      orReject ((s.frame fd).withBit row.toNat col.toNat v) s fun m => answer 0 (s.setFrame fd m) := rfl

section
variable {s : State} {fd : FReg} {v : Bool} {row col : Word}

theorem exec_fset_inside (hr : row.toNat < (s.frame fd).rows) (hc : col.toNat < (s.frame fd).cols) :
    exec (.fset fd v row col) s =
      answer 0 (s.setFrame fd ((s.frame fd).setBit row.toNat col.toNat v)) := by
  rw [exec_fset, MatrixValue.withBit_inside hr hc, orReject_ok]

theorem exec_fset_outside
    (h : ¬ (row.toNat < (s.frame fd).rows ∧ col.toNat < (s.frame fd).cols)) :
    exec (.fset fd v row col) s = reject .oobMatrix s := by
  rw [exec_fset, MatrixValue.withBit_outside h, orReject_error]

end

section
variable {s : State} {fd : FReg} {hScale vScale : Word}

theorem exec_fdown_of_ne_zero (hh : hScale.toNat ≠ 0) (hv : vScale.toNat ≠ 0) :
    exec (.fdown fd hScale vScale) s =
      answer 0 (s.setFrame fd ((s.frame fd).downsample hScale.toNat vScale.toNat)) :=
  if_neg (not_or.mpr ⟨hh, hv⟩)

theorem exec_fdown_of_zero (h : hScale.toNat = 0 ∨ vScale.toNat = 0) :
    exec (.fdown fd hScale vScale) s = reject .zeroScale s :=
  if_pos h

end

theorem exec_feq (fa fb : FReg) (s : State) :
    exec (.feq fa fb) s = answer ((s.frame fa).equals (s.frame fb)).toNat s := rfl

theorem exec_fcols (fa : FReg) (s : State) : exec (.fcols fa) s = answer (s.frame fa).cols s := rfl

/-! ### The statements -/

/-- Settles O27: the result is `downsample`, of which a cell is the top-left cell of its block, and both
cells are stored. -/
theorem fdownKeepsTopLeftCells : Obligations.FdownKeepsTopLeftCells := by
  refine fun fd hScale vScale s => ⟨?encoding, fun hwf hh hv => ?sampled, fun h => ?zero⟩
  case encoding =>
    rw [frameIndex_eq_field]
    exact decode_commandWord (i := .fdown fd hScale vScale) rfl
  case sampled =>
    obtain ⟨t, ht, honly, hans, hframe⟩ :=
      answer_setFrame s fd ((s.frame fd).downsample hScale.toNat vScale.toNat)
    rw [exec_fdown_of_ne_zero hh hv]
    refine ⟨t, ht, honly, hans, ?_⟩
    rw [hframe]
    refine ⟨rfl, rfl, MatrixValue.downsample_wf, fun r c hr hc => ?_⟩
    have hsource := MatrixValue.getElem?_index hwf (MatrixValue.blockStart_lt hr)
      (MatrixValue.blockStart_lt hc)
    exact ⟨_, hsource, (MatrixValue.downsample_getElem? hwf hr hc).trans hsource⟩
  case zero => exact exec_fdown_of_zero h

/-- Settles O29: FGET's response is a function of what `BitAt` answers (`exec_fget`), so each law is one
about `BitAt` of the matrix written. -/
theorem frameStoreLaws : Obligations.FrameStoreLaws := by
  refine ⟨fun s fd rows cols row col hcap hr hc => ?new, fun s fd v row col hs hr hc => ?write,
    fun s fd hScale vScale hs hh hv => ?sample⟩
  case new =>
    obtain ⟨t, ht, -, -, hframe⟩ :=
      answer_setFrame s fd (MatrixValue.zero rows.toNat cols.toNat)
    have hbit : (t.frame fd).bitAt row.toNat col.toNat = .ok false := by
      rw [hframe, MatrixValue.zero_bitAt hr hc]
    obtain ⟨u, hu, -, hans⟩ := exec_fget_of_bitAt hbit
    exact ⟨t, u, (exec_fnew_of_fits hcap).trans ht, hu, hans⟩
  case write =>
    obtain ⟨hwf, -⟩ := hs.frame_fits fd
    obtain ⟨t, ht, -, -, hframe⟩ :=
      answer_setFrame s fd ((s.frame fd).setBit row.toNat col.toNat v)
    refine ⟨t, (exec_fset_inside hr hc).trans ht, ?same, fun row' col' hne => ?other⟩
    case same =>
      have hbit : (t.frame fd).bitAt row.toNat col.toNat = .ok v := by
        rw [hframe, MatrixValue.setBit_bitAt_same hwf hr hc]
      obtain ⟨u, hu, -, hans⟩ := exec_fget_of_bitAt hbit
      exact ⟨u, hu, hans⟩
    case other =>
      have hne' : row'.toNat ≠ row.toNat ∨ col'.toNat ≠ col.toNat := by
        simpa only [ne_eq, BitVec.toNat_inj] using hne
      have hbit : (t.frame fd).bitAt row'.toNat col'.toNat =
          (s.frame fd).bitAt row'.toNat col'.toNat := by
        rw [hframe, MatrixValue.setBit_bitAt_ne hc hne']
      exact ⟨_, _, _, exec_fget fd row' col' s, rfl, exec_fget fd row' col' t, by simp [hbit]⟩
  case sample =>
    obtain ⟨t, ht, -, -, hframe⟩ :=
      answer_setFrame s fd ((s.frame fd).downsample hScale.toNat vScale.toNat)
    refine ⟨t, (exec_fdown_of_ne_zero hh hv).trans ht, by rw [hframe]; rfl, by rw [hframe]; rfl,
      fun r c r' c' hr hc hr' hc' => ?_⟩
    rw [hframe] at hr hc
    have hsource := MatrixValue.bitAt_inside (MatrixValue.blockStart_lt hr)
      (MatrixValue.blockStart_lt hc)
    rw [← hr', ← hc'] at hsource
    have hcell : (t.frame fd).bitAt r.toNat c.toNat = (s.frame fd).bitAt r'.toNat c'.toNat := by
      rw [hframe, MatrixValue.downsample_bitAt hr hc, hr', hc']
    obtain ⟨u, hu, -, hans⟩ := exec_fget_of_bitAt hsource
    obtain ⟨u', hu', -, hans'⟩ := exec_fget_of_bitAt (hcell.trans hsource)
    exact ⟨_, u, u', hu, hans, hu', hans'⟩

/-- Settles O23: the capacity check on the exact product, then the write of `Zero(rows, cols)`. -/
theorem fnewWritesAllFalse : Obligations.FnewWritesAllFalse := by
  refine fun fd rows cols s => ⟨?encoding, fun hcap => ?written, fun hcap => ?rejected⟩
  case encoding =>
    rw [frameIndex_eq_field]
    exact decode_commandWord (i := .fnew fd rows cols) rfl
  case written =>
    rw [exec_fnew_of_fits hcap]
    exact answer_setFrame s fd (MatrixValue.zero rows.toNat cols.toNat)
  case rejected => exact exec_fnew_of_exceeds hcap

/-- Settles O24: in range the bit `BitAt` answers is the one stored, and out of range it answers an error. -/
theorem fgetReadsOneBit : Obligations.FgetReadsOneBit := by
  refine fun fa row col s => ⟨?encoding, fun hwf hr hc => ?inside, fun hout => ?outside⟩
  case encoding =>
    rw [frameIndex_eq_field]
    exact decode_commandWord (i := .fget fa row col) rfl
  case inside =>
    obtain ⟨t, ht⟩ := exec_fget_of_bitAt (MatrixValue.bitAt_inside hr hc)
    exact ⟨_, t, MatrixValue.getElem?_index hwf hr hc, ht⟩
  case outside =>
    rw [exec_fget, MatrixValue.bitAt_outside (by omega)]
    rfl

/-- Settles O25: the result is `setBit`, whose bits are those before but for the addressed one. -/
theorem fsetWritesOneBit : Obligations.FsetWritesOneBit := by
  refine fun fd v row col s => ⟨?encoding, fun hwf hr hc => ?inside, fun hout => ?outside⟩
  case encoding =>
    rw [frameIndex_eq_field, toNat_eq_fieldOfBit]
    exact decode_commandWord (i := .fset fd v row col) rfl
  case inside =>
    obtain ⟨t, ht, honly, hans, hframe⟩ :=
      answer_setFrame s fd ((s.frame fd).setBit row.toNat col.toNat v)
    rw [exec_fset_inside hr hc]
    refine ⟨t, ht, honly, hans, ?_⟩
    rw [hframe]
    exact ⟨rfl, rfl, MatrixValue.setBit_getElem?_same hwf hr hc,
      fun k hk => MatrixValue.setBit_getElem?_ne hk⟩
  case outside => exact exec_fset_outside (by omega)

/-- Settles O26: FEQ answers the verdict of `equals`, which compares the three fields. -/
theorem feqComparesDimensionsAndBits : Obligations.FeqComparesDimensionsAndBits := by
  refine fun fa fb s => ⟨?encoding, ?verdict⟩
  case encoding =>
    rw [frameIndex_eq_field, frameIndex_eq_field]
    exact decode_commandWord (i := .feq fa fb) rfl
  case verdict =>
    obtain ⟨t, ht, hsame, hans⟩ := answer_sameBlock_answered s
      ((bitOperand_lt ((s.frame fa).equals (s.frame fb))).trans (by decide))
    refine ⟨t, (exec_feq fa fb s).trans ht, hsame, fun heq => ?equal, fun hne => ?differ⟩
    case equal => rwa [MatrixValue.equals_iff_fields.mpr heq] at hans
    case differ =>
      have hfalse : (s.frame fa).equals (s.frame fb) = false := by
        rw [← Bool.not_eq_true, MatrixValue.equals_iff_fields]
        tauto
      rwa [hfalse] at hans

/-- Settles O28: a word holds the dimensions of every value that a frame register can hold. -/
theorem frowsAndFcolsAnswerDimensions : Obligations.FrowsAndFcolsAnswerDimensions := by
  refine fun fa s => ⟨?frows, ?fcols, fun ⟨_, hrows, hcols, _⟩ => ⟨?rows, ?cols⟩⟩
  case frows =>
    rw [frameIndex_eq_field]
    exact decode_commandWord (i := .frows fa) rfl
  case fcols =>
    rw [frameIndex_eq_field]
    exact decode_commandWord (i := .fcols fa) rfl
  case rows => exact answer_sameBlock_answered s hrows
  case cols => exact answer_sameBlock_answered s hcols

end Machine
end Sys2Proof

/-! PROOFS. The XOR pipeline (41_xor_pipeline.md): the laws of `XorBits` and of XOR on matrix values, and
what FXOR FXORA and the copy idiom do. -/

namespace Sys2Proof.Machine

/-! ### Bit sequences (41_xor_pipeline.md R100)

Position by position, and with no premise but the lengths that the law itself needs. -/

section
variable (a b c : List Bool)

@[simp] theorem xorBits_getElem {k : Nat} (h : k < (xorBits a b).length) :
    (xorBits a b)[k] =
      (a[k]'(List.lt_length_left_of_zipWith h) ^^ b[k]'(List.lt_length_right_of_zipWith h)) :=
  List.getElem_zipWith

theorem xorBits_getElem?_some {a b : List Bool} {k : Nat} {x y : Bool} (ha : a[k]? = some x)
    (hb : b[k]? = some y) : (xorBits a b)[k]? = some (x ^^ y) :=
  List.getElem?_zipWith_eq_some.mpr ⟨x, y, ha, hb, rfl⟩

theorem xorBits_self : xorBits a a = List.replicate a.length false :=
  List.ext_getElem (by simp) fun k _ _ => by simp

theorem xorBits_comm : xorBits a b = xorBits b a :=
  List.zipWith_comm_of_comm Bool.xor_comm

theorem xorBits_assoc : xorBits (xorBits a b) c = xorBits a (xorBits b c) :=
  List.ext_getElem (by simp [Nat.min_assoc]) fun k _ _ => by simp

theorem xorBits_replicate_false : xorBits a (List.replicate a.length false) = a :=
  List.ext_getElem (by simp) fun k _ _ => by simp

end

/-! ### Matrix values (41_xor_pipeline.md R103) -/

namespace MatrixValue

theorem eq_iff_fields {a b : MatrixValue} :
    a = b ↔ a.rows = b.rows ∧ a.cols = b.cols ∧ a.bits = b.bits := by
  rw [← equals_iff, equals_iff_fields]

section
variable {a b : MatrixValue}

theorem xor_wf (ha : a.wf) (hb : b.wf) (hr : a.rows = b.rows) (hc : a.cols = b.cols) :
    (a.xor b).wf := by
  simp [wf, ha, hb, hr, hc]

theorem xor_self (ha : a.wf) : a.xor a = zero a.rows a.cols :=
  eq_iff_fields.mpr ⟨rfl, rfl, by rw [xor_bits, xorBits_self, ha, zero_bits]⟩

theorem xor_comm (hr : a.rows = b.rows) (hc : a.cols = b.cols) : a.xor b = b.xor a :=
  eq_iff_fields.mpr ⟨hr, hc, xorBits_comm a.bits b.bits⟩

theorem xor_assoc (a b c : MatrixValue) : (a.xor b).xor c = a.xor (b.xor c) :=
  eq_iff_fields.mpr ⟨rfl, rfl, xorBits_assoc a.bits b.bits c.bits⟩

theorem xor_zero (ha : a.wf) : a.xor (zero a.rows a.cols) = a :=
  eq_iff_fields.mpr ⟨rfl, rfl, by rw [xor_bits, zero_bits, ← ha, xorBits_replicate_false]⟩

theorem zero_xor (ha : a.wf) : (zero a.rows a.cols).xor a = a :=
  (xor_comm (a := zero a.rows a.cols) (b := a) rfl rfl).trans (xor_zero ha)

/-- XOR with the same value twice gives back the first one (41_xor_pipeline.md R103). -/
theorem xor_xor_cancel (ha : a.wf) (hb : b.wf) (hr : a.rows = b.rows) (hc : a.cols = b.cols) :
    (a.xor b).xor b = a :=
  calc (a.xor b).xor b = a.xor (b.xor b) := xor_assoc a b b
    _ = a.xor (zero a.rows a.cols) := by rw [xor_self hb, hr, hc]
    _ = a := xor_zero ha

end
end MatrixValue

/-- Settles O32: the laws of `XorBits`, of which only those with `Zero` need the bit count. -/
theorem xorLaws : Obligations.XorLaws := by
  intro a b c ha hb _ hr hc _ _
  exact ⟨MatrixValue.xor_self ha, MatrixValue.xor_xor_cancel ha hb hr hc, MatrixValue.xor_comm hr hc,
    MatrixValue.xor_assoc a b c, MatrixValue.xor_zero ha⟩

/-! ### The commands -/

section
variable {s : State} {fd fa fb : FReg}

theorem exec_fxor_of_sameDims (hr : (s.frame fa).rows = (s.frame fb).rows)
    (hc : (s.frame fa).cols = (s.frame fb).cols) :
    exec (.fxor fd fa fb) s = answer 0 (s.setFrame fd ((s.frame fa).xor (s.frame fb))) :=
  if_pos (MatrixValue.sameDims_iff.mpr ⟨hr, hc⟩)

theorem exec_fxor_of_differ (h : (s.frame fa).rows ≠ (s.frame fb).rows ∨
    (s.frame fa).cols ≠ (s.frame fb).cols) : exec (.fxor fd fa fb) s = reject .operands s :=
  if_neg fun hsame => by
    obtain ⟨hr, hc⟩ := MatrixValue.sameDims_iff.mp hsame
    exact h.elim (· hr) (· hc)

end

/-- The order of the sources does not show, not even in the rejection. -/
theorem exec_fxor_comm (fd fa fb : FReg) (s : State) :
    exec (.fxor fd fa fb) s = exec (.fxor fd fb fa) s := by
  by_cases h : (s.frame fa).rows = (s.frame fb).rows ∧ (s.frame fa).cols = (s.frame fb).cols
  · obtain ⟨hr, hc⟩ := h
    rw [exec_fxor_of_sameDims hr hc, exec_fxor_of_sameDims hr.symm hc.symm, MatrixValue.xor_comm hr hc]
  · rw [exec_fxor_of_differ (by tauto), exec_fxor_of_differ (by tauto)]

/-- FXORA is FXOR with the receiver as destination and first source (41_xor_pipeline.md R102). -/
theorem exec_fxora (fd fa : FReg) (s : State) :
    exec (.fxora fd fa) s = exec (.fxor fd fd fa) s := rfl

/-- What leaves all but one frame register as it was does so when repeated. -/
theorem OnlyFrame.trans {d : FReg} {s t u : State} (hst : OnlyFrame d s t) (htu : OnlyFrame d t u) :
    OnlyFrame d s u := by
  obtain ⟨hcfg, hframe, hstreams, henc, hdec, hinput⟩ := hst
  obtain ⟨hcfg', hframe', hstreams', henc', hdec', hinput'⟩ := htu
  exact ⟨hcfg'.trans hcfg, fun r hr => (hframe' r hr).trans (hframe r hr), hstreams'.trans hstreams,
    henc'.trans henc, hdec'.trans hdec, hinput'.trans hinput⟩

/-! ### The statements -/

/-- Settles O33: `Zero xor A = A` on the register that FNEW left all false and on `F[a]`, which FNEW left
as it was. -/
theorem copyIdiom : Obligations.CopyIdiom := by
  intro s fd fa r c hs hne hr hc
  obtain ⟨hwf, -, -, hcap⟩ := hs.frame_fits fa
  rw [← hr, ← hc] at hcap
  obtain ⟨t, ht, honly, -, hzero⟩ := answer_setFrame s fd (MatrixValue.zero r.toNat c.toNat)
  have hsource : t.frame fa = s.frame fa := by
    obtain ⟨-, hframe, -⟩ := honly
    exact hframe fa hne.symm
  have hsame : (t.frame fd).rows = (t.frame fa).rows ∧ (t.frame fd).cols = (t.frame fa).cols := by
    rw [hzero, hsource]
    exact ⟨hr, hc⟩
  obtain ⟨hrows, hcols⟩ := hsame
  obtain ⟨u, hu, honly', -, hcopy⟩ := answer_setFrame t fd ((t.frame fd).xor (t.frame fa))
  refine ⟨t, u, (exec_fnew_of_fits hcap).trans ht, ?fxora, honly.trans honly', ?copied⟩
  case fxora => rw [exec_fxora, exec_fxor_of_sameDims hrows hcols, hu]
  case copied => rw [hcopy, hzero, hsource, hr, hc, MatrixValue.zero_xor hwf]

/-- Settles O30: both sources are read in the state before, so the destination may be either. -/
theorem fxorWritesBitwiseXor : Obligations.FxorWritesBitwiseXor := by
  refine fun fd fa fb s => ⟨?encoding, fun ha hb hr hc => ?written, fun h => ?rejected⟩
  case encoding =>
    rw [frameIndex_eq_field, frameIndex_eq_field, frameIndex_eq_field]
    exact decode_commandWord (i := .fxor fd fa fb) rfl
  case written =>
    obtain ⟨t, ht, honly, hans, hframe⟩ := answer_setFrame s fd ((s.frame fa).xor (s.frame fb))
    rw [exec_fxor_of_sameDims hr hc]
    refine ⟨t, ht, honly, hans, ?_⟩
    rw [hframe]
    exact ⟨rfl, rfl, MatrixValue.xor_wf ha hb hr hc, fun k x y hx hy => xorBits_getElem?_some hx hy⟩
  case rejected => exact exec_fxor_of_differ h

/-- Settles O31: FXORA is FXOR with the receiver as first source, of which O30 says what it does, and the
sources of FXOR commute. -/
theorem fxoraXorsInPlace : Obligations.FxoraXorsInPlace := by
  intro fd fa s
  obtain ⟨-, hwritten, hrejected⟩ := fxorWritesBitwiseXor fd fd fa s
  refine ⟨?encoding, exec_fxor_comm fd fd fa s, hwritten, hrejected⟩
  case encoding =>
    rw [frameIndex_eq_field, frameIndex_eq_field]
    exact decode_commandWord (i := .fxora fd fa) rfl

end Sys2Proof.Machine

/-! PROOFS. Windows (42_window_export.md): where packed bits lie, what the scan of a window can
do, and what VGET VSET VEXP do. -/

namespace Sys2Proof.Machine

/-! ### Packed bits (42_window_export.md R115) -/

/-- The number of a bit sequence has the sequence as its binary digits. -/
theorem bitsValue_testBit (bs : List Bool) (k : Nat) : (bitsValue bs).testBit k = bs.getD k false := by
  induction bs generalizing k with
  | nil => simp
  | cons b bs ih =>
    rw [bitsValue_cons, Nat.add_comm]
    cases k with
    | zero => cases b <;> simp [Nat.testBit_zero]
    | succ k =>
      rw [Nat.testBit_succ, Nat.mul_add_div (by decide), Nat.div_eq_of_lt b.toNat_lt, Nat.add_zero, ih,
        List.getD_cons_succ]

theorem packBits_getElem? {s : List Bool} {j : Nat} (h : j < packedLength s.length) :
    (packBits s)[j]? = some (BitVec.ofNat 8 (bitsValue ((s.drop (8 * j)).take 8))) := by
  simp [packBits, h]

/-- Bit `k mod 8` of byte `k div 8` is the bit `s[k]`, or 0 from the end of the sequence on. -/
theorem packBits_getLsbD {s : List Bool} {k : Nat} {byte : Byte}
    (h : (packBits s)[k / 8]? = some byte) : byte.getLsbD (k % 8) = s.getD k false := by
  have hj : k / 8 < packedLength s.length := by
    obtain ⟨hlt, -⟩ := List.getElem?_eq_some_iff.mp h
    rwa [packBits_length] at hlt
  obtain rfl := Option.some.inj ((packBits_getElem? hj).symm.trans h)
  have hk : k % 8 < 8 := Nat.mod_lt k (by decide)
  rw [BitVec.getLsbD_ofNat, bitsValue_testBit, decide_eq_true hk, Bool.true_and,
    List.getD_eq_getElem?_getD, List.getElem?_take_of_lt hk, List.getElem?_drop, Nat.div_add_mod,
    List.getD_eq_getElem?_getD]

/-- The byte that holds bit `s[k]`. -/
theorem packBits_of_getElem? {s : List Bool} {k : Nat} {b : Bool} (h : s[k]? = some b) :
    ∃ byte, (packBits s)[k / 8]? = some byte ∧ byte.getLsbD (k % 8) = b := by
  obtain ⟨hk, -⟩ := List.getElem?_eq_some_iff.mp h
  have hbyte := packBits_getElem? (s := s) (j := k / 8) (by unfold packedLength; omega)
  refine ⟨_, hbyte, ?_⟩
  rw [packBits_getLsbD hbyte, List.getD_eq_getElem?_getD, h, Option.getD_some]

theorem packBits_unused {s : List Bool} {k : Nat} {byte : Byte} (hk : s.length ≤ k)
    (h : (packBits s)[k / 8]? = some byte) : byte.getLsbD (k % 8) = false := by
  rw [packBits_getLsbD h, List.getD_eq_default _ _ hk]

/-- Settles O37: every byte is the number of its eight bits, whose binary digits they are. -/
theorem packBitsPositions : Obligations.PackBitsPositions := fun s =>
  ⟨packBits_length s, fun _ _ h => packBits_of_getElem? h, fun _ _ hk h => packBits_unused hk h⟩

/-! ### The scan of a window (42_window_export.md R114) -/

namespace Window

/-- Every cell of the window lies in the matrix, and `bits` holds the bits of the cells, each at its linear
position: what the scan of R114 collects (`scan_cases`). -/
def ScannedAs (n : Window) (m : MatrixValue) (bits : List Bool) : Prop :=
  bits.length = n.cells ∧ ∀ r c, r < n.subRows → c < n.subCols →
    n.startRow + r < m.rows ∧ n.startCol + c < m.cols ∧
      bits[r * n.subCols + c]? = some (m.bit (m.index (n.startRow + r) (n.startCol + c)))

section
variable {n : Window} {m : MatrixValue}

/-- A scan that fails does so with the error of a cell it visits. -/
theorem scanFrom_error {count k : Nat} {i : Info} (h : n.scanFrom m count k = .error i) :
    ∃ j, k ≤ j ∧ j < k + count ∧ n.bitAt m (j / n.subCols) (j % n.subCols) = .error i := by
  induction count generalizing k with
  | zero => cases h
  | succ count ih =>
    unfold scanFrom at h
    split at h
    next e hcell =>
      cases h
      exact ⟨k, le_rfl, by omega, hcell⟩
    next b hcell =>
      split at h
      next e hrest =>
        cases h
        obtain ⟨j, hkj, hj, hbit⟩ := ih hrest
        exact ⟨j, by omega, by omega, hbit⟩
      next => cases h

/-- The linear position of a window's cell is a row-major index, that of `Zero(subRows, subCols)`. -/
theorem position_lt {r c : Nat} (hr : r < n.subRows) (hc : c < n.subCols) :
    r * n.subCols + c < n.cells :=
  MatrixValue.index_lt (m := MatrixValue.zero n.subRows n.subCols) hr hc

theorem position_div {r c : Nat} (hc : c < n.subCols) : (r * n.subCols + c) / n.subCols = r :=
  MatrixValue.index_div (m := MatrixValue.zero n.subRows n.subCols) hc

theorem position_mod {r c : Nat} (hc : c < n.subCols) : (r * n.subCols + c) % n.subCols = c :=
  Nat.mul_add_mod_of_lt hc

/-- Every linear position below the number of cells is that of a cell of the window. -/
theorem cell_of_position {j : Nat} (hj : j < n.cells) :
    j / n.subCols < n.subRows ∧ j % n.subCols < n.subCols := by
  have hpos : 0 < n.subCols := Nat.pos_of_ne_zero fun h0 => by simp [cells, h0] at hj
  exact ⟨(Nat.div_lt_iff_lt_mul hpos).mpr hj, Nat.mod_lt _ hpos⟩

variable (n m) in
/-- What the scan of a window can answer: the bits of its cells, or the rejection of an access to a cell
outside the matrix. -/
theorem scan_cases :
    (∃ bits, n.scan m = .ok bits ∧ n.ScannedAs m bits) ∨
    (n.scan m = .error .oobMatrix ∧ ∃ r c, r < n.subRows ∧ c < n.subCols ∧
      ¬ (n.startRow + r < m.rows ∧ n.startCol + c < m.cols)) := by
  cases h : n.scan m with
  | ok bits =>
    obtain ⟨hlen, hget⟩ := scanFrom_ok h
    refine .inl ⟨bits, rfl, hlen, fun r c hr hc => ?_⟩
    have hk : r * n.subCols + c < bits.length := hlen ▸ position_lt hr hc
    have hcell := hget _ hk
    rw [Nat.zero_add, position_div hc, position_mod hc, bitAt_inside hr hc] at hcell
    obtain ⟨hrow, hcol, hbit⟩ | ⟨-, herr⟩ := m.bitAt_cases (n.startRow + r) (n.startCol + c)
    · rw [hbit] at hcell
      exact ⟨hrow, hcol, by rw [List.getElem?_eq_getElem hk, Except.ok.inj hcell]⟩
    · exact nomatch herr.symm.trans hcell
  | error i =>
    obtain ⟨j, -, hj, hcell⟩ := scanFrom_error h
    rw [Nat.zero_add] at hj
    obtain ⟨hr, hc⟩ := cell_of_position hj
    rw [bitAt_inside hr hc] at hcell
    obtain ⟨-, -, hbit⟩ | ⟨hout, herr⟩ :=
      m.bitAt_cases (n.startRow + j / n.subCols) (n.startCol + j % n.subCols)
    · exact nomatch hbit.symm.trans hcell
    · obtain rfl := Except.error.inj (herr.symm.trans hcell)
      exact .inr ⟨rfl, _, _, hr, hc, hout⟩

/-- A window that is empty or lies inside the matrix is scanned cell by cell. -/
theorem scan_inside (h : n.cells = 0 ∨
      (n.startRow + n.subRows ≤ m.rows ∧ n.startCol + n.subCols ≤ m.cols)) :
    ∃ bits, n.scan m = .ok bits ∧ n.ScannedAs m bits := by
  obtain hok | ⟨-, r, c, hr, hc, hout⟩ := scan_cases n m
  · exact hok
  · have hcells := position_lt hr hc
    omega

/-- The last cell of a window that leaves the matrix lies outside. -/
theorem scan_outside (hcells : 0 < n.cells)
    (h : m.rows < n.startRow + n.subRows ∨ m.cols < n.startCol + n.subCols) :
    n.scan m = .error .oobMatrix := by
  obtain ⟨hrows, hcols⟩ := CanonicallyOrderedAdd.mul_pos.mp hcells
  obtain ⟨bits, -, -, hin⟩ | ⟨herr, -⟩ := scan_cases n m
  · obtain ⟨hr, hc, -⟩ := hin (n.subRows - 1) (n.subCols - 1) (by omega) (by omega)
    omega
  · exact herr

end

end Window

/-! ### The commands -/

theorem streamIndex_eq_field (r : WReg) : streamIndex r = r.field.toNat := by cases r <;> rfl

/-- A command that writes a wire-stream register and answers 0 does nothing else. -/
theorem answer_setStream (s : State) (d : WReg) (b : List Byte) :
    ∃ t, answer 0 (s.setStream d b) = .next t ∧ OnlyStream d s t ∧ Answered s t 0 ∧ t.stream d = b :=
  ⟨_, rfl, ⟨rfl, rfl, fun _ hr => State.setStream_stream_ne s d b hr, rfl, rfl, rfl⟩,
    answered_respond_ok (s.setStream d b) (by decide), State.setStream_stream_same s d b⟩

section
variable {fa : FReg} {sr sc nr nc row col : Word} {s : State}

/-- Inside the window VGET answers what `BitAt` does at the translated position (R111). -/
theorem exec_vget_inside (hrow : row.toNat < nr.toNat) (hcol : col.toNat < nc.toNat) :
    exec (.vget fa sr sc nr nc row col) s =
      .next (s.respond (bitResponse
        ((s.frame fa).bitAt (sr.toNat + row.toNat) (sc.toNat + col.toNat)))) := by
  change orReject (Window.bitAt (windowOf sr sc nr nc) _ _ _) s _ = _
  rw [Window.bitAt_inside hrow hcol, windowOf_startRow, windowOf_startCol]
  cases (s.frame fa).bitAt (sr.toNat + row.toNat) (sc.toNat + col.toNat) with
  | ok b => rfl
  | error i => rfl

theorem exec_vget_outside (h : ¬ (row.toNat < nr.toNat ∧ col.toNat < nc.toNat)) :
    exec (.vget fa sr sc nr nc row col) s = reject .oobView s := by
  change orReject (Window.bitAt (windowOf sr sc nr nc) _ _ _) s _ = _
  rw [Window.bitAt_outside h, orReject_error]

end

section
variable {fd : FReg} {v : Bool} {sr sc nr nc row col : Word} {s : State}

/-- Inside the window VSET writes what `WithBit` gives at the translated position (R111). -/
theorem exec_vset_inside (hrow : row.toNat < nr.toNat) (hcol : col.toNat < nc.toNat) :
    exec (.vset fd v sr sc nr nc row col) s =
      orReject ((s.frame fd).withBit (sr.toNat + row.toNat) (sc.toNat + col.toNat) v) s
        fun m => answer 0 (s.setFrame fd m) := by
  change orReject (Window.withBit (windowOf sr sc nr nc) _ _ _ _) s _ = _
  rw [Window.withBit_inside hrow hcol, windowOf_startRow, windowOf_startCol]

theorem exec_vset_outside (h : ¬ (row.toNat < nr.toNat ∧ col.toNat < nc.toNat)) :
    exec (.vset fd v sr sc nr nc row col) s = reject .oobView s := by
  change orReject (Window.withBit (windowOf sr sc nr nc) _ _ _ _) s _ = _
  rw [Window.withBit_outside h, orReject_error]

end

section
variable {s : State} {wd : WReg} {fa : FReg} {sr sc nr nc : Word}

theorem exec_vexp_of_fits (h : packedLength (nr.toNat * nc.toNat) ≤ s.cfg.bytesCap) :
    exec (.vexp wd fa sr sc nr nc) s =
      orReject ((windowOf sr sc nr nc).scan (s.frame fa)) s
        fun bits => answer 0 (s.setStream wd (packBits bits)) :=
  if_pos (bytesFit_iff.mpr h)

theorem exec_vexp_of_exceeds (h : s.cfg.bytesCap < packedLength (nr.toNat * nc.toNat)) :
    exec (.vexp wd fa sr sc nr nc) s = reject .wCap s :=
  if_neg fun hfits => absurd (bytesFit_iff.mp hfits) h.not_ge

end

/-! ### The statements -/

/-- Settles O36: the capacity check comes before the scan, whose bits lie at their cells' linear positions
(`Window.scan_inside`) and are packed position by position (O37). -/
theorem vexpPacksTheWindow : Obligations.VexpPacksTheWindow := by
  refine fun wd fa sr sc nr nc s =>
    ⟨?encoding, fun hwf hcap hin => ?packed, fun hcap => ?exceeds, fun hcap hcells hout => ?outside⟩
  case encoding =>
    rw [streamIndex_eq_field, frameIndex_eq_field]
    exact decode_commandWord (i := .vexp wd fa sr sc nr nc) rfl
  case packed =>
    obtain ⟨bits, hscan, hlen, hbits⟩ :=
      Window.scan_inside (n := windowOf sr sc nr nc) (m := s.frame fa) hin
    obtain ⟨t, ht, honly, hans, hstream⟩ := answer_setStream s wd (packBits bits)
    rw [windowOf_cells] at hlen
    rw [exec_vexp_of_fits hcap, hscan, orReject_ok, ht]
    refine ⟨t, rfl, honly, hans, ?_⟩
    rw [hstream, ← hlen]
    refine ⟨packBits_length bits, fun r c hr hc => ?cell, fun k byte hk hbyte => packBits_unused hk hbyte⟩
    case cell =>
      obtain ⟨hrow, hcol, hbit⟩ := hbits r c hr hc
      obtain ⟨byte, hbyte, hvalue⟩ := packBits_of_getElem? hbit
      exact ⟨_, byte, MatrixValue.getElem?_index hwf hrow hcol, hbyte, hvalue⟩
  case exceeds => exact exec_vexp_of_exceeds hcap
  case outside =>
    rw [exec_vexp_of_fits hcap, Window.scan_outside (n := windowOf sr sc nr nc) hcells hout]
    rfl

/-- Settles O34: the access through the window is `BitAt` at the translated position, and the window of the
whole matrix translates nothing. -/
theorem vgetReadsThroughWindow : Obligations.VgetReadsThroughWindow := by
  refine fun fa sr sc nr nc row col s => ⟨?encoding, fun hwf hrow hcol hr hc => ?inside,
    fun hout => ?outsideWindow, fun hrow hcol hout => ?outsideMatrix,
    fun hsr hsc _ _ hrow hcol => ?wholeMatrix⟩
  case encoding =>
    rw [frameIndex_eq_field]
    exact decode_commandWord (i := .vget fa sr sc nr nc row col) rfl
  case inside =>
    rw [exec_vget_inside hrow hcol, MatrixValue.bitAt_inside hr hc]
    exact ⟨_, _, MatrixValue.getElem?_index hwf hr hc, rfl, sameBlock_respond s _,
      answered_respond_ok s ((bitOperand_lt _).trans (by decide))⟩
  case outsideWindow => exact exec_vget_outside (by omega)
  case outsideMatrix =>
    rw [exec_vget_inside hrow hcol, MatrixValue.bitAt_outside (by omega)]
    rfl
  case wholeMatrix =>
    rw [exec_vget_inside hrow hcol, exec_fget, hsr, hsc, BitVec.toNat_zero, Nat.zero_add, Nat.zero_add]

/-- Settles O35: the result is `setBit` at the translated position, as FSET writes it at the position
given. -/
theorem vsetWritesThroughWindow : Obligations.VsetWritesThroughWindow := by
  refine fun fd v sr sc nr nc row col s => ⟨?encoding, fun hwf hrow hcol hr hc => ?inside,
    fun hout => ?outsideWindow, fun hrow hcol hout => ?outsideMatrix⟩
  case encoding =>
    rw [frameIndex_eq_field, toNat_eq_fieldOfBit]
    exact decode_commandWord (i := .vset fd v sr sc nr nc row col) rfl
  case inside =>
    obtain ⟨t, ht, honly, hans, hframe⟩ := answer_setFrame s fd
      ((s.frame fd).setBit (sr.toNat + row.toNat) (sc.toNat + col.toNat) v)
    rw [exec_vset_inside hrow hcol, MatrixValue.withBit_inside hr hc, orReject_ok]
    refine ⟨t, ht, honly, hans, ?_⟩
    rw [hframe]
    exact ⟨rfl, rfl, MatrixValue.setBit_getElem?_same hwf hr hc,
      fun k hk => MatrixValue.setBit_getElem?_ne hk⟩
  case outsideWindow => exact exec_vset_outside (by omega)
  case outsideMatrix =>
    rw [exec_vset_inside hrow hcol, MatrixValue.withBit_outside (by omega)]
    rfl

end Sys2Proof.Machine

/-! PROOFS. The run-length codec (43_rle_codec.md): little-endian fields read back, records and runs
determine each other, the decoder inverts the encoder, the streaming encoder sends the same records, and
what RLEENC RLEDEC do. -/

namespace Sys2Proof

/-- A size field holds every number that `SIZE_WIDTH` bits hold. -/
theorem Config.headerBytes_range {p : Config} (h : p.legal = true) :
    256 ^ p.headerBytes = 2 ^ p.sizeWidth := by
  rw [← Config.headerBytes_mul h, Nat.pow_mul]

/-- A record holds every number that `RUN_WIDTH` bits hold. -/
theorem Config.recordBytes_range {p : Config} (h : p.legal = true) :
    256 ^ p.recordBytes = 2 ^ p.runWidth := by
  rw [← Config.recordBytes_mul h, Nat.pow_mul]

namespace Machine

/-! ### Little-endian fields (00_scope.md R10, R12) -/

/-- A little-endian field reads back as the low bytes of what it was written from. -/
theorem leValue_leBytes (n x : Nat) : leValue (leBytes n x) = x % 256 ^ n := by
  induction n generalizing x with
  | zero => simp [leBytes, Nat.mod_one]
  | succ n ih => rw [leBytes, leValue_cons, ih, Nat.pow_succ', Nat.mod_mul, BitVec.toNat_ofNat]

/-- A field at the front of a stream reads back as the number it holds. -/
theorem memRead_leBytes_append {n x : Nat} (h : x < 256 ^ n) (w : List Byte) :
    memRead (leBytes n x ++ w) 0 n = x := by
  rw [memRead, List.drop_zero, List.take_left' (leBytes_length n x), leValue_leBytes,
    Nat.mod_eq_of_lt h]

/-- A read past the front of a stream is a read of the rest. -/
theorem memRead_append_add {a : List Byte} {m : Nat} (h : a.length = m) (w : List Byte) (k n : Nat) :
    memRead (a ++ w) (m + k) n = memRead w k n := by
  subst h
  rw [memRead, List.drop_length_add_append, memRead]

/-! ### Records (43_rle_codec.md R122, R123) -/

/-- A run that one record carries: 1 to `MAXRUN` bits (43_rle_codec.md R123). -/
def Run.FitsRecord (maxRun : Nat) (r : Run) : Prop := 1 ≤ r.length ∧ r.length ≤ maxRun

section
variable {maxRun : Nat}

theorem lengthField_of_lt {len : Nat} (h : len < maxRun) : lengthField maxRun len = len :=
  Nat.mod_eq_of_lt h

theorem lengthField_maxRun : lengthField maxRun maxRun = 0 := Nat.mod_self maxRun

/-- The length field of a length that a record carries stands for that length. -/
theorem runLengthOf_lengthField {len : Nat} (hpos : 1 ≤ len) (hle : len ≤ maxRun) :
    runLengthOf maxRun (lengthField maxRun len) = len := by
  rcases hle.lt_or_eq with hlt | rfl
  · rw [lengthField_of_lt hlt]
    exact if_neg (by omega)
  · rw [lengthField_maxRun]
    exact if_pos rfl

/-- Every value of the length field stands for a length that is stored as that value. -/
theorem lengthField_runLengthOf {f : Nat} (h : f < maxRun) :
    1 ≤ runLengthOf maxRun f ∧ runLengthOf maxRun f ≤ maxRun ∧
      lengthField maxRun (runLengthOf maxRun f) = f := by
  by_cases hf : f = 0
  · rw [runLengthOf, if_pos hf, lengthField_maxRun]
    omega
  · rw [runLengthOf, if_neg hf, lengthField_of_lt h]
    omega

/-- The length field lies below the value bit. -/
theorem recordOf_lt (h : 0 < maxRun) (r : Run) : recordOf maxRun r < 2 * maxRun := by
  have hfield : lengthField maxRun r.length < maxRun := Nat.mod_lt _ h
  have hvalue : r.value.toNat * maxRun ≤ 1 * maxRun :=
    Nat.mul_le_mul_right _ (Nat.le_of_lt_succ r.value.toNat_lt)
  rw [recordOf]
  omega

/-- A record reads back as the run it codes. -/
theorem runOfRecord_recordOf {r : Run} (h : r.FitsRecord maxRun) :
    runOfRecord maxRun (recordOf maxRun r) = r := by
  obtain ⟨hpos, hle⟩ := h
  have hmax : 0 < maxRun := by omega
  have hfield : lengthField maxRun r.length < maxRun := Nat.mod_lt _ hmax
  have hvalue : recordOf maxRun r / maxRun = r.value.toNat := by
    rw [recordOf, Nat.add_comm, Nat.add_mul_div_right _ _ hmax, Nat.div_eq_of_lt hfield, Nat.zero_add]
  have hlength : recordOf maxRun r % maxRun = lengthField maxRun r.length := by
    rw [recordOf, Nat.add_comm, Nat.add_mul_mod_self_right, Nat.mod_eq_of_lt hfield]
  rw [runOfRecord, hvalue, hlength, runLengthOf_lengthField hpos hle]
  cases r with
  | mk value length => cases value <;> rfl

end

/-- Settles O39: the length field and the lengths from 1 to `MAXRUN` determine each other, and the value
bit lies above the length field, at the top of a record. -/
theorem recordCodingInverts : Obligations.RecordCodingInverts := by
  refine fun p v len hlegal => ⟨fun _ hlt => lengthField_of_lt hlt, lengthField_maxRun,
    fun hpos hle => ⟨rfl, ?fits, runOfRecord_recordOf ⟨hpos, hle⟩⟩, fun f => lengthField_runLengthOf⟩
  case fits =>
    rw [← Config.two_mul_maxRun hlegal]
    exact recordOf_lt p.maxRun_pos _

/-! ### Runs and the bits they spell (43_rle_codec.md R124) -/

/-- The maximal runs of a bit sequence spell it. -/
@[simp] theorem expandRuns_maximalRuns (b : List Bool) : expandRuns (maximalRuns b) = b := by
  induction b with
  | nil => rfl
  | cons x bs ih =>
    rcases maximalRuns_cons_cases x bs with ⟨hnil, heq⟩ | ⟨r, rs, hcons, hx, heq⟩ | ⟨r, rs, hcons, -, heq⟩
    · rw [hnil] at ih
      rw [heq]
      simp [← ih]
    · rw [hcons] at ih
      rw [heq]
      simp [hx, ← ih, List.replicate_succ]
    · rw [hcons] at ih
      rw [heq]
      simp [← ih]

@[simp] theorem expandRuns_replicate (q : Nat) (r : Run) :
    expandRuns (List.replicate q r) = List.replicate (q * r.length) r.value := by
  induction q with
  | zero => simp
  | succ q ih =>
    rw [List.replicate_succ, expandRuns_cons, ih, List.replicate_append_replicate, Nat.succ_mul,
      Nat.add_comm]

/-- Splitting a run to the size of records leaves its bits as they are. -/
@[simp] theorem expandRuns_splitRun (maxRun : Nat) (r : Run) :
    expandRuns (splitRun maxRun r) = List.replicate r.length r.value := by
  have hrest : expandRuns (if r.length % maxRun = 0 then [] else [{ r with length := r.length % maxRun }]) =
      List.replicate (r.length % maxRun) r.value := by
    split
    next h => simp [h]
    next => simp
  rw [splitRun, expandRuns_append, expandRuns_replicate, hrest, List.replicate_append_replicate,
    Nat.mul_comm, Nat.div_add_mod]

@[simp] theorem expandRuns_flatMap_splitRun (maxRun : Nat) (rs : List Run) :
    expandRuns (rs.flatMap (splitRun maxRun)) = expandRuns rs := by
  induction rs with
  | nil => rfl
  | cons r rs ih => simp [ih]

/-- The record runs of a bit sequence spell it. -/
@[simp] theorem expandRuns_recordRuns (maxRun : Nat) (b : List Bool) :
    expandRuns (recordRuns maxRun b) = b := by
  rw [recordRuns, expandRuns_flatMap_splitRun, expandRuns_maximalRuns]

@[simp] theorem records_nil (p : Config) : records p [] = [] := rfl

theorem splitRun_fitsRecord {maxRun : Nat} (h : 0 < maxRun) (r : Run) :
    ∀ r' ∈ splitRun maxRun r, r'.FitsRecord maxRun := by
  intro r' hmem
  rcases List.mem_append.mp hmem with hfull | hrest
  · rw [List.eq_of_mem_replicate hfull]
    exact ⟨h, le_rfl⟩
  · split at hrest
    next => cases hrest
    next hne =>
      rw [List.mem_singleton.mp hrest]
      exact ⟨Nat.pos_of_ne_zero hne, (Nat.mod_lt _ h).le⟩

/-- Every record run fits its record. -/
theorem recordRuns_fitsRecord {maxRun : Nat} (h : 0 < maxRun) (b : List Bool) :
    ∀ r ∈ recordRuns maxRun b, r.FitsRecord maxRun := by
  intro r hmem
  obtain ⟨r', -, hr'⟩ := List.mem_flatMap.mp hmem
  exact splitRun_fitsRecord h r' r hr'

/-! ### Decoding what was encoded (43_rle_codec.md R129, R134) -/

section
variable {p : Config} {rs : List Run}

/-- Record `j` of a sequence of records reads back as the number that codes run `j`. -/
theorem memRead_flatMap_recordBytes (hlegal : p.legal = true) {j : Nat} {r : Run}
    (hj : rs[j]? = some r) :
    memRead (rs.flatMap (recordBytes p)) (j * p.recordBytes) p.recordBytes = recordOf p.maxRun r := by
  induction rs generalizing j with
  | nil => simp at hj
  | cons r' rs ih =>
    rw [List.flatMap_cons]
    cases j with
    | zero =>
      obtain rfl : r' = r := by simpa using hj
      rw [Nat.zero_mul]
      refine memRead_leBytes_append ?_ _
      rw [Config.recordBytes_range hlegal, ← Config.two_mul_maxRun hlegal]
      exact recordOf_lt p.maxRun_pos r'
    | succ j =>
      rw [Nat.succ_mul, Nat.add_comm, memRead_append_add (recordBytes_length p r')]
      exact ih (by simpa using hj)

/-- The decoder reads the runs that the records after a size field code. -/
theorem decodedRuns_of_records (hlegal : p.legal = true) (hrs : ∀ r ∈ rs, r.FitsRecord p.maxRun)
    (n : Nat) :
    decodedRuns p (leBytes p.headerBytes n ++ rs.flatMap (recordBytes p)) rs.length = rs := by
  refine List.ext_getElem (decodedRuns_length _ _ _) fun j _ hj => ?_
  simp only [decodedRuns, List.getElem_map, List.getElem_range]
  rw [memRead_append_add (leBytes_length _ _),
    memRead_flatMap_recordBytes hlegal (List.getElem?_eq_getElem hj),
    runOfRecord_recordOf (hrs _ (List.getElem_mem hj))]

/-- A size field and records decode to the bits of the records, or are a length mismatch. -/
theorem rleDecode_of_records (hlegal : p.legal = true) (hrs : ∀ r ∈ rs, r.FitsRecord p.maxRun)
    {n : Nat} (hn : n < 2 ^ p.sizeWidth) :
    rleDecode p (leBytes p.headerBytes n ++ rs.flatMap (recordBytes p)) =
      if totalLength rs = n then .ok (expandRuns rs) else .error .lengthMismatch := by
  have hlength : (leBytes p.headerBytes n ++ rs.flatMap (recordBytes p)).length - p.headerBytes =
      rs.length * p.recordBytes := by
    rw [List.length_append, leBytes_length, flatMap_recordBytes_length, Nat.add_sub_cancel_left]
  have hheader : memRead (leBytes p.headerBytes n ++ rs.flatMap (recordBytes p)) 0 p.headerBytes = n :=
    memRead_leBytes_append (by rwa [Config.headerBytes_range hlegal]) _
  have hcount : rs.length * p.recordBytes / p.recordBytes = rs.length :=
    Nat.mul_div_cancel _ (Config.recordBytes_pos hlegal)
  have hcases := rleDecode_cases p (leBytes p.headerBytes n ++ rs.flatMap (recordBytes p))
  rw [hlength, hheader, hcount, decodedRuns_of_records hlegal hrs, Nat.mul_mod_left] at hcases
  rcases hcases with ⟨hshort, -⟩ | ⟨-, hpartial, -⟩ | ⟨-, -, hne, heq⟩ | ⟨-, -, htotal, heq⟩
  · rw [List.length_append, leBytes_length] at hshort
    omega
  · exact absurd rfl hpartial
  · rw [heq, if_neg hne]
  · rw [heq, if_pos htotal]

/-- Decoding inverts encoding. -/
theorem rleDecode_rleEncode (hlegal : p.legal = true) {b : List Bool} (hb : b.length < 2 ^ p.sizeWidth) :
    rleDecode p (rleEncode p b) = .ok b := by
  have htotal : totalLength (recordRuns p.maxRun b) = b.length := by
    rw [← expandRuns_length, expandRuns_recordRuns]
  rw [rleEncode, records, rleDecode_of_records hlegal (recordRuns_fitsRecord p.maxRun_pos b) hb,
    if_pos htotal, expandRuns_recordRuns]

end

/-! ### The streaming encoder (43_rle_codec.md R125) -/

/-- A maximal run begins with the bit that its sequence begins with. -/
theorem head?_maximalRuns (b : List Bool) : (maximalRuns b).head?.map Run.value = b.head? := by
  cases b with
  | nil => rfl
  | cons x bs =>
    rcases maximalRuns_cons_cases x bs with ⟨-, heq⟩ | ⟨r, rs, -, hx, heq⟩ | ⟨r, rs, -, -, heq⟩
    · simp [heq]
    · rw [heq, hx]
      rfl
    · simp [heq]

section
variable {v : Bool} {bs : List Bool}

/-- Equal bits that the rest does not continue are one maximal run. -/
theorem maximalRuns_replicate_append (h : bs.head? ≠ some v) (k : Nat) :
    maximalRuns (List.replicate (k + 1) v ++ bs) = { value := v, length := k + 1 } :: maximalRuns bs := by
  induction k with
  | zero =>
    rcases maximalRuns_cons_cases v bs with ⟨hnil, heq⟩ | ⟨r, rs, hcons, hv, -⟩ | ⟨r, rs, hcons, -, heq⟩
    · simpa [hnil] using heq
    · have hhead := head?_maximalRuns bs
      rw [hcons] at hhead
      exact absurd (by simp [← hhead, hv]) h
    · simpa [hcons] using heq
  | succ k ih =>
    rw [List.replicate_succ, List.cons_append, maximalRuns, ih]
    exact if_pos rfl

/-- The record runs of equal bits that the rest does not continue come first; of no bits there are none. -/
theorem recordRuns_replicate_append (maxRun : Nat) (h : bs.head? ≠ some v) (k : Nat) :
    recordRuns maxRun (List.replicate k v ++ bs) =
      splitRun maxRun { value := v, length := k } ++ recordRuns maxRun bs := by
  cases k with
  | zero => simp [splitRun]
  | succ k => rw [recordRuns, maximalRuns_replicate_append h, List.flatMap_cons, recordRuns]

/-- Every bit sequence is some number of bits `v`, possibly none, and a rest that does not continue them. -/
theorem exists_replicate_append (v : Bool) (bs : List Bool) :
    ∃ k rest, bs = List.replicate k v ++ rest ∧ rest.head? ≠ some v := by
  induction bs with
  | nil => exact ⟨0, [], rfl, by simp⟩
  | cons b bs ih =>
    by_cases hb : b = v
    · obtain ⟨k, rest, heq, hrest⟩ := ih
      exact ⟨k + 1, rest, by rw [hb, heq, List.replicate_succ, List.cons_append], hrest⟩
    · exact ⟨0, b :: bs, rfl, by simpa using hb⟩

end

theorem splitRun_add_maxRun {maxRun : Nat} (h : 0 < maxRun) (v : Bool) (k : Nat) :
    splitRun maxRun { value := v, length := maxRun + k } =
      { value := v, length := maxRun } :: splitRun maxRun { value := v, length := k } := by
  simp [splitRun, Nat.add_div_left _ h, List.replicate_succ]

theorem splitRun_of_lt {maxRun k : Nat} (hpos : 0 < k) (hlt : k < maxRun) (v : Bool) :
    splitRun maxRun { value := v, length := k } = [{ value := v, length := k }] := by
  simp [splitRun, Nat.div_eq_of_lt hlt, Nat.mod_eq_of_lt hlt, hpos.ne']

/-- `MAXRUN` equal bits give a full record, whether or not the rest continues them. -/
theorem recordRuns_replicate_maxRun_append {maxRun : Nat} (h : 0 < maxRun) (v : Bool) (bs : List Bool) :
    recordRuns maxRun (List.replicate maxRun v ++ bs) =
      { value := v, length := maxRun } :: recordRuns maxRun bs := by
  obtain ⟨k, rest, rfl, hrest⟩ := exists_replicate_append v bs
  rw [← List.append_assoc, List.replicate_append_replicate, recordRuns_replicate_append _ hrest,
    recordRuns_replicate_append _ hrest, splitRun_add_maxRun h, List.cons_append]

theorem records_replicate_maxRun_append (p : Config) (v : Bool) (bs : List Bool) :
    records p (List.replicate p.maxRun v ++ bs) =
      recordBytes p { value := v, length := p.maxRun } ++ records p bs := by
  simp [records, recordRuns_replicate_maxRun_append p.maxRun_pos]

/-- The bytes that the streaming encoder will have sent after `bs` and the last flush. -/
def Encoder.owed (p : Config) (e : Encoder) (bs : List Bool) : List Byte :=
  e.out ++ records p (List.replicate e.count e.cur ++ bs)

section
variable {p : Config} {e : Encoder} {bs : List Bool}

/-- A flush sends what the count stands for when the next bit does not continue the run. -/
theorem Encoder.flush_out_append (hcount : e.count < p.maxRun) (h : bs.head? ≠ some e.cur) :
    (e.flush p).out ++ records p bs = e.owed p bs := by
  rw [owed, records, records, recordRuns_replicate_append _ h]
  by_cases hpos : 0 < e.count
  · simp [flush, hpos, splitRun_of_lt hpos hcount]
  · have hzero : e.count = 0 := by omega
    simp [flush, hzero, splitRun]

/-- A bit that continues the run is counted, and a full run is sent at once. -/
theorem Encoder.feed_cur (hcount : e.count < p.maxRun) :
    (e.feed p e.cur).count < p.maxRun ∧ (e.feed p e.cur).owed p bs = e.owed p (e.cur :: bs) := by
  have hcounted : List.replicate e.count e.cur ++ e.cur :: bs =
      List.replicate (e.count + 1) e.cur ++ bs := by simp [List.replicate_succ']
  by_cases hfull : e.count + 1 = p.maxRun
  · have hfeed : e.feed p e.cur =
        { e with count := 0, out := e.out ++ recordBytes p { value := e.cur, length := p.maxRun } } := by
      simp [feed, flush, hfull, p.maxRun_pos]
    rw [hfeed, owed, owed, hcounted, hfull, records_replicate_maxRun_append]
    exact ⟨p.maxRun_pos, by simp⟩
  · have hfeed : e.feed p e.cur = { e with count := e.count + 1 } := by simp [feed, hfull]
    rw [hfeed, owed, owed, hcounted]
    exact ⟨by dsimp only; omega, rfl⟩

/-- A bit that ends the run is the first bit after a flush. -/
theorem Encoder.feed_of_ne {b : Bool} (h : b ≠ e.cur) :
    e.feed p b = ({ cur := b, count := 0, out := (e.flush p).out } : Encoder).feed p b := by
  simp [feed, h]

/-- One input bit keeps the count below `MAXRUN` and the bytes owed as they are. -/
theorem Encoder.feed_owed (hcount : e.count < p.maxRun) (b : Bool) (bs : List Bool) :
    (e.feed p b).count < p.maxRun ∧ (e.feed p b).owed p bs = e.owed p (b :: bs) := by
  by_cases hb : b = e.cur
  · subst hb
    exact feed_cur hcount
  · obtain ⟨hcount', howed⟩ := feed_cur (p := p) (bs := bs)
      (e := { cur := b, count := 0, out := (e.flush p).out }) p.maxRun_pos
    rw [feed_of_ne hb]
    exact ⟨hcount', howed.trans (flush_out_append hcount (by simpa using hb))⟩

/-- The loop and the last flush send exactly the bytes owed at the start. -/
theorem Encoder.flush_foldl_feed (hcount : e.count < p.maxRun) (bs : List Bool) :
    ((bs.foldl (Encoder.feed p) e).flush p).out = e.owed p bs := by
  induction bs generalizing e with
  | nil => simpa using flush_out_append (bs := []) hcount (by simp)
  | cons b bs ih =>
    obtain ⟨hcount', howed⟩ := feed_owed hcount b bs
    rw [List.foldl_cons, ih hcount', howed]

end

/-- Settles O41: the loop starts with nothing sent and nothing counted, so it owes the records of the whole
sequence. -/
theorem streamingEncoderComputesRecords : Obligations.StreamingEncoderComputesRecords := by
  intro p b _ hne
  cases b with
  | nil => exact absurd rfl hne
  | cons x bs => exact Encoder.flush_foldl_feed (e := ⟨x, 0, []⟩) p.maxRun_pos (x :: bs)

/-! ### The commands -/

section
variable {s : State} {wd wa : WReg} {fa fd : FReg} {x : List Bool}

theorem exec_rleenc_of_fits (hsize : (s.frame fa).bits.length < 2 ^ s.cfg.sizeWidth)
    (hcap : (rleEncode s.cfg (s.frame fa).bits).length ≤ s.cfg.bytesCap) :
    exec (.rleenc wd fa) s = answer 0 (s.setStream wd (rleEncode s.cfg (s.frame fa).bits)) :=
  (if_pos (Config.sizeFits_iff.mpr hsize)).trans (if_pos (bytesFit_iff.mpr hcap))

theorem exec_rleenc_of_long (hsize : 2 ^ s.cfg.sizeWidth ≤ (s.frame fa).bits.length) :
    exec (.rleenc wd fa) s = reject .sizeField s :=
  if_neg fun hfits => absurd (Config.sizeFits_iff.mp hfits) hsize.not_gt

theorem exec_rleenc_of_exceeds (hsize : (s.frame fa).bits.length < 2 ^ s.cfg.sizeWidth)
    (hcap : s.cfg.bytesCap < (rleEncode s.cfg (s.frame fa).bits).length) :
    exec (.rleenc wd fa) s = reject .wCap s :=
  (if_pos (Config.sizeFits_iff.mpr hsize)).trans
    (if_neg fun hfits => absurd (bytesFit_iff.mp hfits) hcap.not_ge)

theorem exec_rledec (fd : FReg) (wa : WReg) (s : State) :
    exec (.rledec fd wa) s = orReject (rleDecode s.cfg (s.stream wa)) s fun x =>
      if s.bitsFit x.length then answer 0 (s.setFrame fd (rowOf x)) else reject .fCap s := rfl

theorem exec_rledec_of_error {i : Info} (h : rleDecode s.cfg (s.stream wa) = .error i) :
    exec (.rledec fd wa) s = reject i s := by
  rw [exec_rledec, h, orReject_error]

theorem exec_rledec_of_fits (h : rleDecode s.cfg (s.stream wa) = .ok x)
    (hcap : x.length ≤ s.cfg.bitsCap) :
    exec (.rledec fd wa) s = answer 0 (s.setFrame fd (rowOf x)) := by
  rw [exec_rledec, h, orReject_ok, if_pos (bitsFit_iff.mpr hcap)]

theorem exec_rledec_of_exceeds (h : rleDecode s.cfg (s.stream wa) = .ok x)
    (hcap : s.cfg.bitsCap < x.length) : exec (.rledec fd wa) s = reject .fCap s := by
  rw [exec_rledec, h, orReject_ok, if_neg fun hfits => absurd (bitsFit_iff.mp hfits) hcap.not_ge]

end

/-! ### The statements -/

/-- Settles O47: the decoder's checks pass on an encoded sequence, whose record runs spell it; a frame
register's bits are within the capacity when read back; the stream of R132 is not canonical. -/
theorem rleRoundTrip : Obligations.RleRoundTrip := by
  refine ⟨fun p b hlegal hsize => rleDecode_rleEncode hlegal hsize, fun s wd fa fd hs hsize hcap => ?commands,
    [0x04#8, 0x00#8, 0x81#8, 0x81#8, 0x82#8], [true, true, true, true], by decide, by decide⟩
  case commands =>
    obtain ⟨hwf, -, -, hbits⟩ := hs.frame_fits fa
    obtain ⟨hlegal, -⟩ := hs
    obtain ⟨t, ht, ⟨hcfg, -⟩, -, hstream⟩ :=
      answer_setStream s wd (rleEncode s.cfg (s.frame fa).bits)
    have hdecode : rleDecode t.cfg (t.stream wd) = .ok (s.frame fa).bits := by
      rw [hcfg, hstream, rleDecode_rleEncode hlegal hsize]
    obtain ⟨u, hu, -, -, hframe⟩ := answer_setFrame t fd (rowOf (s.frame fa).bits)
    refine ⟨t, u, (exec_rleenc_of_fits hsize hcap).trans ht, (exec_rledec_of_fits hdecode ?_).trans hu,
      hframe⟩
    rw [hcfg]
    exact hwf.trans_le hbits

/-- Settles O38: the size field is the first `HB` bytes of the stream. -/
theorem sizeFieldIsLittleEndian : Obligations.SizeFieldIsLittleEndian := by
  refine fun p b hlegal hsize => ⟨fun k hk => ?byte, ?value⟩
  case byte => rw [rleEncode, List.getElem?_append_left (by simpa using hk), leBytes_getElem? _ hk]
  case value => exact memRead_leBytes_append (by rwa [Config.headerBytes_range hlegal]) _

/-- Settles O42: the empty sequence has no runs, and its stream is decoded as every encoded one. -/
theorem emptyInputIsHeaderOnly : Obligations.EmptyInputIsHeaderOnly := by
  have hempty (p : Config) : rleEncode p [] = leBytes p.headerBytes 0 := by
    rw [rleEncode, records_nil, List.append_nil, List.length_nil]
  refine ⟨hempty, fun p hlegal => ?decoded, by decide⟩
  case decoded =>
    rw [← hempty]
    exact rleDecode_rleEncode hlegal (Nat.two_pow_pos _)

/-- Settles O43: the size field check, then the capacity check on the stream's exact length, then the
write. -/
theorem rleencWritesTheStream : Obligations.RleencWritesTheStream := by
  refine fun wd fa s => ⟨?encoding, fun hsize hcap => ?written, fun hsize => exec_rleenc_of_long hsize,
    fun hsize hcap => exec_rleenc_of_exceeds hsize hcap⟩
  case encoding =>
    rw [streamIndex_eq_field, frameIndex_eq_field]
    exact decode_commandWord (i := .rleenc wd fa) rfl
  case written =>
    rw [exec_rleenc_of_fits hsize hcap]
    exact answer_setStream s wd _

/-- Settles O45: the decoder's checks one after the other; every number is a multiple of 1. -/
theorem malformedStreamsAreRejected : Obligations.MalformedStreamsAreRejected := by
  refine fun p w _ => ⟨fun hshort => if_pos hshort,
    fun hlong hpartial => (if_neg hlong.not_gt).trans (if_pos hpartial), fun hone hdecode => ?oneByte⟩
  case oneByte =>
    rcases rleDecode_cases p w with ⟨-, heq⟩ | ⟨-, hpartial, -⟩ | ⟨-, -, -, heq⟩ | ⟨-, -, -, heq⟩
    · simp [heq] at hdecode
    · exact hpartial (by rw [hone, Nat.mod_one])
    · simp [heq] at hdecode
    · simp [heq] at hdecode

/-- Settles O46: the decoder's error is the command's, and its bits are written as one row when they fit. -/
theorem rledecWritesOneRow : Obligations.RledecWritesOneRow := by
  refine fun fd wa s => ⟨?encoding, fun x hx hcap => ?written, exec_rledec_of_error, exec_rledec_of_error,
    exec_rledec_of_error, fun x hx hcap => exec_rledec_of_exceeds hx hcap⟩
  case encoding =>
    rw [streamIndex_eq_field, frameIndex_eq_field]
    exact decode_commandWord (i := .rledec fd wa) rfl
  case written =>
    rw [exec_rledec_of_fits hx hcap]
    exact answer_setFrame s fd (rowOf x)

end Machine
end Sys2Proof

/-! PROOFS. The delta-frame differencer (44_delta_frame.md): the write of a Synced context, a delta and its
application as XOR, and what DFINIT DFENC DFDEC do. -/

namespace Sys2Proof.Machine

/-! ### Contexts (10_state.md R24, R25) -/

theorem contextIndex_eq_field (c : Ctx) : contextIndex c = c.field.toNat := by cases c <;> rfl

@[simp] theorem MatrixValue.fitsContext_iff {m : MatrixValue} {p : Config} {c : Ctx} :
    m.fitsContext p c = true ↔ m.rows = p.rows c ∧ m.cols = p.cols c := by
  simp [MatrixValue.fitsContext]

theorem MatrixValue.not_fitsContext {m : MatrixValue} {p : Config} {c : Ctx}
    (h : m.rows ≠ p.rows c ∨ m.cols ≠ p.cols c) : ¬ m.fitsContext p c = true := by
  rwa [fitsContext_iff, not_and_or]

/-- On a Synced context DFENC and DFDEC write the baseline as DFINIT does. -/
theorem State.setLatest_eq_initialise {s : State} {c : Ctx} (h : s.synced c = true) (m : MatrixValue) :
    s.setLatest c m = s.initialise c m := by
  rw [setLatest_eq, initialise_eq, h]

/-- A command that makes a context Synced and answers 0 does nothing else. -/
theorem answer_initialise (s : State) (c : Ctx) (m : MatrixValue) :
    ∃ t, answer 0 (s.initialise c m) = .next t ∧ OnlyContext c s t ∧ Answered s t 0 ∧
      t.context c = { synced := true, latest := m } := by
  refine ⟨_, rfl, ⟨State.setContext_cfg s c _, State.setContext_frames s c _,
    State.setContext_streams s c _, fun c' hc' => ?other, State.setContext_input s c _⟩, ?answered, ?same⟩
  case other => rw [State.respond_context, State.initialise_eq, State.setContext_context_ne s c _ hc']
  case answered =>
    have hans := answered_respond_ok (s.initialise c m) (v := 0) (by decide)
    rwa [Answered, State.initialise_eq, State.setContext_responses] at hans
  case same => rw [State.respond_context, State.initialise_eq, State.setContext_context_same]

/-! ### Deltas (44_delta_frame.md R142, R143) -/

/-- A delta is applied as the XOR with the matrix value that has its bits and the baseline's dimensions. -/
theorem applyDelta_eq_xor (l : MatrixValue) (x : List Bool) :
    applyDelta l x = l.xor { rows := l.rows, cols := l.cols, bits := x } := rfl

theorem applyDelta_wf {l : MatrixValue} {x : List Bool} (hl : l.wf) (hx : x.length = l.rows * l.cols) :
    (applyDelta l x).wf := by
  rw [applyDelta_eq_xor]
  exact MatrixValue.xor_wf hl hx rfl rfl

/-! ### The commands -/

section
variable {s : State} {c : Ctx} {fa fd : FReg} {wd wa : WReg} {x : List Bool}

theorem exec_dfinit_of_fits (hr : (s.frame fa).rows = s.cfg.rows c)
    (hc : (s.frame fa).cols = s.cfg.cols c) :
    exec (.dfinit c fa) s = answer 0 (s.initialise c (s.frame fa)) :=
  if_pos (MatrixValue.fitsContext_iff.mpr ⟨hr, hc⟩)

theorem exec_dfinit_of_differ (h : (s.frame fa).rows ≠ s.cfg.rows c ∨ (s.frame fa).cols ≠ s.cfg.cols c) :
    exec (.dfinit c fa) s = reject .config s :=
  if_neg (MatrixValue.not_fitsContext h)

theorem exec_dfenc_of_not_synced (h : s.enc.synced = false) :
    exec (.dfenc wd fa) s = reject .notSynced s :=
  if_neg (Bool.eq_false_iff.mp h)

theorem exec_dfenc_of_differ (h : s.enc.synced = true)
    (hdims : (s.frame fa).rows ≠ s.cfg.rowsE ∨ (s.frame fa).cols ≠ s.cfg.colsE) :
    exec (.dfenc wd fa) s = reject .config s :=
  (if_pos h).trans (if_neg (MatrixValue.not_fitsContext hdims))

theorem exec_dfenc_of_fitsContext (h : s.enc.synced = true) (hr : (s.frame fa).rows = s.cfg.rowsE)
    (hc : (s.frame fa).cols = s.cfg.colsE) :
    exec (.dfenc wd fa) s =
      if s.bytesFit (deltaStream s (s.frame fa)).length then
        answer 0 ((s.initialise .enc (s.frame fa)).setStream wd (deltaStream s (s.frame fa)))
      else reject .wCap s := by
  rw [← State.setLatest_eq_initialise (c := .enc) h]
  exact (if_pos h).trans (if_pos (MatrixValue.fitsContext_iff.mpr ⟨hr, hc⟩))

theorem exec_dfenc_of_fits (h : s.enc.synced = true) (hr : (s.frame fa).rows = s.cfg.rowsE)
    (hc : (s.frame fa).cols = s.cfg.colsE)
    (hcap : (deltaStream s (s.frame fa)).length ≤ s.cfg.bytesCap) :
    exec (.dfenc wd fa) s =
      answer 0 ((s.initialise .enc (s.frame fa)).setStream wd (deltaStream s (s.frame fa))) := by
  rw [exec_dfenc_of_fitsContext h hr hc, if_pos (bytesFit_iff.mpr hcap)]

theorem exec_dfenc_of_exceeds (h : s.enc.synced = true) (hr : (s.frame fa).rows = s.cfg.rowsE)
    (hc : (s.frame fa).cols = s.cfg.colsE)
    (hcap : s.cfg.bytesCap < (deltaStream s (s.frame fa)).length) :
    exec (.dfenc wd fa) s = reject .wCap s := by
  rw [exec_dfenc_of_fitsContext h hr hc, if_neg fun hfits => absurd (bytesFit_iff.mp hfits) hcap.not_ge]

theorem exec_dfdec_of_not_synced (h : s.dec.synced = false) :
    exec (.dfdec fd wa) s = reject .notSynced s :=
  if_neg (Bool.eq_false_iff.mp h)

theorem exec_dfdec_of_synced (h : s.dec.synced = true) :
    exec (.dfdec fd wa) s = orReject (rleDecode s.cfg (s.stream wa)) s fun x =>
      if x.length = s.dec.latest.rows * s.dec.latest.cols then
        answer 0 ((s.initialise .dec (applyDelta s.dec.latest x)).setFrame fd
          (applyDelta s.dec.latest x))
      else reject .frameSize s := by
  simp only [← State.setLatest_eq_initialise (c := .dec) h]
  exact if_pos h

theorem exec_dfdec_of_error {i : Info} (h : s.dec.synced = true)
    (hdecode : rleDecode s.cfg (s.stream wa) = .error i) :
    exec (.dfdec fd wa) s = reject i s := by
  rw [exec_dfdec_of_synced h, hdecode, orReject_error]

theorem exec_dfdec_of_length (h : s.dec.synced = true) (hdecode : rleDecode s.cfg (s.stream wa) = .ok x)
    (hlen : x.length = s.dec.latest.rows * s.dec.latest.cols) :
    exec (.dfdec fd wa) s =
      answer 0 ((s.initialise .dec (applyDelta s.dec.latest x)).setFrame fd
        (applyDelta s.dec.latest x)) := by
  rw [exec_dfdec_of_synced h, hdecode, orReject_ok, if_pos hlen]

theorem exec_dfdec_of_length_ne (h : s.dec.synced = true)
    (hdecode : rleDecode s.cfg (s.stream wa) = .ok x)
    (hlen : x.length ≠ s.dec.latest.rows * s.dec.latest.cols) :
    exec (.dfdec fd wa) s = reject .frameSize s := by
  rw [exec_dfdec_of_synced h, hdecode, orReject_ok, if_neg hlen]

end

/-! ### The statements -/

/-- Settles O51: the baseline and the frame have the configured dimensions, so their XOR has every bit of
the frame; the stream is written to the block whose baseline the frame has become. -/
theorem dfencEncodesTheDelta : Obligations.DfencEncodesTheDelta := by
  refine fun wd fa s => ⟨?encoding, fun hs hsync hr hc hcap => ?encoded, exec_dfenc_of_not_synced,
    exec_dfenc_of_differ, exec_dfenc_of_exceeds⟩
  case encoding =>
    rw [streamIndex_eq_field, frameIndex_eq_field]
    exact decode_commandWord (i := .dfenc wd fa) rfl
  case encoded =>
    obtain ⟨hframe, -⟩ := hs.frame_fits fa
    obtain ⟨-, -, -, ⟨hbase, hbaseRows, hbaseCols⟩, -⟩ := hs
    obtain ⟨t, ht, ⟨hcfg, hframes, hother, henc, hdec, hinput⟩, hans, hstream⟩ :=
      answer_setStream (s.initialise .enc (s.frame fa)) wd (deltaStream s (s.frame fa))
    refine ⟨t, xorBits s.enc.latest.bits (s.frame fa).bits, (exec_dfenc_of_fits hsync hr hc hcap).trans ht,
      hans, ?length, fun k a b ha hb => xorBits_getElem?_some ha hb, hstream, henc, hcfg, hframes, hother,
      hdec, hinput⟩
    case length =>
      rw [xorBits_length, hbase, hframe, hbaseRows, hbaseCols, hr, hc]
      exact Nat.min_self _

/-- Settles O52: the delta has as many bits as the baseline, so the frame reconstructed is well-formed; it
is written to the block whose baseline it has become. -/
theorem dfdecAppliesTheDelta : Obligations.DfdecAppliesTheDelta := by
  refine fun fd wa s => ⟨?encoding, fun x hs hsync hdecode hlen => ?applied, exec_dfdec_of_not_synced,
    exec_dfdec_of_error, exec_dfdec_of_error, exec_dfdec_of_error, fun x => exec_dfdec_of_length_ne⟩
  case encoding =>
    rw [frameIndex_eq_field, streamIndex_eq_field]
    exact decode_commandWord (i := .dfdec fd wa) rfl
  case applied =>
    obtain ⟨-, -, -, -, hbase, hrows, hcols⟩ := hs
    have hsize : x.length = s.dec.latest.rows * s.dec.latest.cols := by
      rw [hrows, hcols]
      exact hlen
    obtain ⟨t, ht, ⟨hcfg, hother, hstreams, henc, hdec, hinput⟩, hans, hframe⟩ :=
      answer_setFrame (s.initialise .dec (applyDelta s.dec.latest x)) fd (applyDelta s.dec.latest x)
    rw [exec_dfdec_of_length hsync hdecode hsize]
    refine ⟨t, ht, hans, ?_⟩
    rw [hframe]
    exact ⟨hrows, hcols, applyDelta_wf hbase hsize, fun k a b ha hb => xorBits_getElem?_some ha hb, hdec,
      hcfg, hother, hstreams, henc, hinput⟩

/-- Settles O50: the dimensions are compared one by one; the write does not ask in which state the context
was. -/
theorem dfinitSetsTheBaseline : Obligations.DfinitSetsTheBaseline := by
  refine fun c fa s => ⟨?encoding, fun hr hc => ?written, exec_dfinit_of_differ⟩
  case encoding =>
    rw [frameIndex_eq_field, contextIndex_eq_field]
    exact decode_commandWord (i := .dfinit c fa) rfl
  case written =>
    rw [exec_dfinit_of_fits hr hc]
    exact answer_initialise s c (s.frame fa)

end Sys2Proof.Machine

/-! PROOFS. The stream port and control read (45_stream_port_control.md): what WCLR WPUSH WLEN WGET RDCR
do. -/

namespace Sys2Proof.Machine

/-! ### The commands -/

/-- WCLR (45_stream_port_control.md R160). -/
theorem exec_wclr (wd : WReg) (s : State) : exec (.wclr wd) s = answer 0 (s.setStream wd []) := rfl

section
variable {s : State} {wd wa : WReg} {byte : Byte} {idx : Word} {k : Byte} {v : Nat}

theorem exec_wpush_of_fits (h : (s.stream wd).length + 1 ≤ s.cfg.bytesCap) :
    exec (.wpush wd byte) s = answer 0 (s.setStream wd (s.stream wd ++ [byte])) :=
  if_pos (bytesFit_iff.mpr h)

theorem exec_wpush_of_exceeds (h : s.cfg.bytesCap < (s.stream wd).length + 1) :
    exec (.wpush wd byte) s = reject .wCap s :=
  if_neg fun hfits => absurd (bytesFit_iff.mp hfits) h.not_ge

theorem exec_wget_inside {b : Byte} (h : (s.stream wa)[idx.toNat]? = some b) :
    exec (.wget wa idx) s = answer b.toNat s := by
  change execWget wa idx s = _
  rw [execWget, operand_eq_toNat, h]

theorem exec_wget_outside (h : (s.stream wa).length ≤ idx.toNat) :
    exec (.wget wa idx) s = reject .oobStream s := by
  change execWget wa idx s = _
  rw [execWget, operand_eq_toNat, List.getElem?_eq_none h]

/-- RDCR answers the control register when a word holds it (45_stream_port_control.md R164). -/
theorem exec_rdcr_of_controlRegister (hcr : s.controlRegister k.toNat = some v) (hv : v < 2 ^ 32) :
    ∃ t, exec (.rdcr k) s = .next t ∧ SameBlock s t ∧ Answered s t v := by
  change ∃ t, execRdcr k s = .next t ∧ _
  rw [execRdcr, hcr]
  exact answer_sameBlock_answered s hv

end

/-- `CR[6]` has two bits (10_state.md R27). -/
theorem State.syncRegister_lt (s : State) : s.syncRegister < 4 := by
  have henc : s.enc.synced.toNat < 2 := bitOperand_lt _
  have hdec : s.dec.synced.toNat < 2 := bitOperand_lt _
  rw [syncRegister]
  omega

/-- A command's word passes checks 1 and 2 of 30_encoding.md R65, whatever operand words follow it. -/
theorem decode_wordOf_fields (i : Instr) (ops : List Word) :
    decode ⟨wordOf i.fields, ops⟩ = assemble i.opcode i.fields ops := by
  simp [decode]

/-- RDCR with an index that is no control register stops at check 4 of 30_encoding.md R65. -/
theorem decode_rdcr_of_index_gt {k : Byte} (h : 6 < k.toNat) :
    decode ⟨commandWord 0x48 0 0 0 0 0 k.toNat, []⟩ = .error .badCr := by
  have hword := wordOf_eq_commandWord (f := (Instr.rdcr k).fields) rfl
  calc decode ⟨commandWord 0x48 0 0 0 0 0 k.toNat, []⟩
      = decode ⟨wordOf (Instr.rdcr k).fields, []⟩ := by rw [hword]; rfl
    _ = assemble .rdcr (Instr.rdcr k).fields [] := decode_wordOf_fields (.rdcr k) []
    _ = .error .badCr := assemble_rdcr_of_index_gt rfl h

/-! ### The statements -/

/-- Settles O57: the write of the empty stream. -/
theorem wclrEmptiesTheStream : Obligations.WclrEmptiesTheStream := by
  refine fun wd s => ⟨?encoding, ?emptied⟩
  case encoding =>
    rw [streamIndex_eq_field]
    exact decode_commandWord (i := .wclr wd) rfl
  case emptied =>
    rw [exec_wclr]
    exact answer_setStream s wd []

/-- Settles O58: the capacity check on the length with one byte more, then the write. -/
theorem wpushAppendsOneByte : Obligations.WpushAppendsOneByte := by
  refine fun wd byte s => ⟨?encoding, fun hcap => ?appended, fun hcap => ?rejected⟩
  case encoding =>
    rw [streamIndex_eq_field]
    exact decode_commandWord (i := .wpush wd byte) rfl
  case appended =>
    rw [exec_wpush_of_fits hcap]
    exact answer_setStream s wd (s.stream wd ++ [byte])
  case rejected => exact exec_wpush_of_exceeds hcap

/-- Settles O59: a word holds the length and every byte; past the end the list has no byte to answer. -/
theorem wlenAndWgetRead : Obligations.WlenAndWgetRead := by
  refine fun wa idx s =>
    ⟨?wlen, ?wget, fun hlen => ?length, fun b hb => ?byte, fun hout => ?outside⟩
  case wlen =>
    rw [streamIndex_eq_field]
    exact decode_commandWord (i := .wlen wa) rfl
  case wget =>
    rw [streamIndex_eq_field]
    exact decode_commandWord (i := .wget wa idx) rfl
  case length =>
    rw [exec_wlen]
    exact answer_sameBlock_answered s hlen
  case byte =>
    rw [exec_wget_inside hb]
    exact answer_sameBlock_answered s (b.isLt.trans (by decide))
  case outside => exact exec_wget_outside hout

/-- Settles O60: legality bounds every parameter by a word (10_state.md R27), and the two synced flags
take two bits. -/
theorem rdcrReadsControlRegisters : Obligations.RdcrReadsControlRegisters := by
  refine ⟨fun k => ⟨fun hk => ?legalIndex, decode_rdcr_of_index_gt⟩, fun s hlegal => ?answers⟩
  case legalIndex => exact decode_commandWord (i := .rdcr k) (decide_eq_true hk)
  case answers =>
    obtain ⟨⟨-, -, hrun⟩, ⟨-, -, hsize⟩, hframes, -, -⟩ := s.cfg.legal_iff.mp hlegal
    obtain ⟨hrowsE, hcolsE, -, -⟩ := hframes .enc
    obtain ⟨hrowsD, hcolsD, -, -⟩ := hframes .dec
    exact ⟨exec_rdcr_of_controlRegister rfl hrun, exec_rdcr_of_controlRegister rfl hsize,
      exec_rdcr_of_controlRegister rfl hrowsE, exec_rdcr_of_controlRegister rfl hcolsE,
      exec_rdcr_of_controlRegister rfl hrowsD, exec_rdcr_of_controlRegister rfl hcolsD,
      exec_rdcr_of_controlRegister rfl (s.syncRegister_lt.trans (by decide))⟩

end Sys2Proof.Machine

/-! PROOFS. Exceptions (60_exceptions.md): every command answers OK or is rejected in the state it began
in, so that the response is the only effect of a rejection. -/

namespace Sys2Proof.Machine

/-! ### The two ways a command ends (60_exceptions.md R172, R173) -/

/-- `x` ends a command begun in `s`: it answers OK from a block whose responses are those of `s`, or it
is rejected in `s` itself, whatever has been checked before. -/
inductive AnswersOrRejects (s : State) : Result → Prop
  | answered {v : Nat} {u : State} (h : u.responses = s.responses) : AnswersOrRejects s (answer v u)
  | rejected (i : Info) : AnswersOrRejects s (reject i s)

namespace AnswersOrRejects

variable {s : State}

/-- A check of the command's own: each branch ends the command. -/
theorem of_ite {p : Prop} [Decidable p] {x y : Result} (hx : AnswersOrRejects s x)
    (hy : AnswersOrRejects s y) : AnswersOrRejects s (if p then x else y) := by
  split
  · exact hx
  · exact hy

/-- A checked helper: its error rejects the command, and any value lets it go on to its end. -/
theorem of_orReject {α : Type} (x : Except Info α) {k : α → Result}
    (hk : ∀ a, AnswersOrRejects s (k a)) : AnswersOrRejects s (orReject x s k) := by
  obtain ⟨a, -, ha⟩ | ⟨i, -, hi⟩ := orReject_cases x s k
  · exact ha ▸ hk a
  · exact hi ▸ rejected i

/-- An OK response is told apart from the response of an error, so a status other than OK means that the
command was rejected. -/
theorem eq_respond_error {x : Result} {t : State} {r : Response} (hx : AnswersOrRejects s x)
    (hnext : x = .next t) (hresponse : t.responses = s.responses ++ [r]) (hr : r.status ≠ 0#3) :
    ∃ i, t = s.respond (Response.error i) := by
  cases hx with
  | @answered v u hu =>
    rw [answer_eq_next.mp hnext, State.respond_responses, hu, List.append_cancel_left_eq,
      List.singleton_inj] at hresponse
    exact absurd (hresponse ▸ Response.ok_status v) hr
  | rejected i => exact ⟨i, reject_eq_next.mp hnext⟩

end AnswersOrRejects

open AnswersOrRejects in
/-- Every command of 30_encoding.md R64 ends in one of these ways: its writes come after its last check. -/
theorem exec_answersOrRejects (i : Instr) (s : State) : AnswersOrRejects s (exec i s) := by
  cases i with
  | fnew fd rows cols => exact of_ite (answered rfl) (rejected .fCap)
  | fget fa row col => exact of_orReject _ fun _ => answered rfl
  | fset fd v row col => exact of_orReject _ fun _ => answered rfl
  | feq fa fb => exact answered rfl
  | fdown fd hScale vScale => exact of_ite (rejected .zeroScale) (answered rfl)
  | frows fa => exact answered rfl
  | fcols fa => exact answered rfl
  | fxor fd fa fb => exact of_ite (answered rfl) (rejected .operands)
  | fxora fd fa => exact of_ite (answered rfl) (rejected .operands)
  | vget fa sr sc nr nc row col => exact of_orReject _ fun _ => answered rfl
  | vset fd v sr sc nr nc row col => exact of_orReject _ fun _ => answered rfl
  | vexp wd fa sr sc nr nc => exact of_ite (of_orReject _ fun _ => answered rfl) (rejected .wCap)
  | rleenc wd fa => exact of_ite (of_ite (answered rfl) (rejected .wCap)) (rejected .sizeField)
  | rledec fd wa => exact of_orReject _ fun _ => of_ite (answered rfl) (rejected .fCap)
  | dfinit c fa => exact of_ite (answered (State.setContext_responses s c _)) (rejected .config)
  | dfenc wd fa =>
    exact of_ite (of_ite (of_ite (answered rfl) (rejected .wCap)) (rejected .config)) (rejected .notSynced)
  | dfdec fd wa =>
    exact of_ite (of_orReject _ fun _ => of_ite (answered rfl) (rejected .frameSize)) (rejected .notSynced)
  | wclr wd => exact answered rfl
  | wpush wd byte => exact of_ite (answered rfl) (rejected .wCap)
  | wlen wa => exact answered rfl
  | wget wa idx =>
    cases hbyte : (s.stream wa)[idx.toNat]? with
    | some b => exact exec_wget_inside hbyte ▸ answered rfl
    | none => exact exec_wget_outside (List.getElem?_eq_none_iff.mp hbyte) ▸ rejected .oobStream
  | rdcr k =>
    simp only [exec, execRdcr]
    split
    · exact answered rfl
    · exact rejected .badCr

/-! ### The port (30_encoding.md R65) -/

/-- In a legal configuration a transaction is taken, and then it is ended by its command or by decoding. -/
theorem step_answersOrRejects {s : State} {tr : Transaction} {rest : List HostEvent}
    (hlegal : s.cfg.legal = true) (hinput : s.input = .command tr :: rest) :
    AnswersOrRejects { s with input := rest } (step s) := by
  cases hdecode : decode tr with
  | ok i =>
    have hstep : step s = exec i { s with input := rest } := by
      simp [step, takeEvent, hlegal, hinput, hdecode]
    exact hstep ▸ exec_answersOrRejects i _
  | error e =>
    have hstep : step s = reject (illegalInfo e) { s with input := rest } := by
      simp [step, takeEvent, hlegal, hinput, hdecode, rejectIllegal]
    exact hstep ▸ .rejected (illegalInfo e)

/-! ### The statements -/

/-- Settles O16: the response says that the step rejected the transaction in the state that took it, and
a rejection adds its response to that state. -/
theorem rejectedCommandChangesNothing : Obligations.RejectedCommandChangesNothing := by
  intro s t tr rest r hinput hstep hresponse hstatus
  have hlegal : s.cfg.legal = true := by
    by_contra hillegal
    simp [step_refused_of_not_legal hillegal] at hstep
  obtain ⟨i, rfl⟩ := (step_answersOrRejects hlegal hinput).eq_respond_error hstep hresponse hstatus
  exact ⟨rfl, rfl, rfl, rfl, rfl, rfl⟩

end Sys2Proof.Machine

/-! PROOFS. The encoding (30_encoding.md, 20_memory.md R44): decode and encode are inverse to each other, a mask
selects its opcode's row, which opcodes are unassigned, and the byte channel. -/

namespace Sys2Proof

/-! ### Decode and encode -/

theorem decode_encode {i : Instr} (h : i.wellFormed = true) : decode (encode i) = .ok i :=
  (Machine.decode_wordOf_fields i i.operandWords).trans (assemble_fields h)

/-- A command whose own transaction decodes is well-formed: of RDCR, check 4 of R65 has seen the index. -/
theorem Instr.wellFormed_of_decode_encode {i j : Instr} (h : decode (encode i) = .ok j) :
    i.wellFormed = true := by
  cases i with
  | rdcr k =>
    obtain ⟨-, hindex⟩ := checks_of_assemble_ok ((Machine.decode_wordOf_fields (.rdcr k) []).symm.trans h)
    exact decide_eq_true (hindex rfl)
  | _ => rfl

/-! ### Masks -/

/-- The fields of a conjunction are the conjunctions of the fields. -/
theorem fieldsOf_and (w v : Word) : fieldsOf (w &&& v) =
    { op := (fieldsOf w).op &&& (fieldsOf v).op
      rd := (fieldsOf w).rd &&& (fieldsOf v).rd
      ra := (fieldsOf w).ra &&& (fieldsOf v).ra
      rb := (fieldsOf w).rb &&& (fieldsOf v).rb
      v := (fieldsOf w).v &&& (fieldsOf v).v
      c := (fieldsOf w).c &&& (fieldsOf v).c
      imm8 := (fieldsOf w).imm8 &&& (fieldsOf v).imm8
      reserved := (fieldsOf w).reserved &&& (fieldsOf v).reserved } := by
  simp only [fieldsOf, BitVec.extractLsb'_and]

theorem fieldsOf_inj {w v : Word} : fieldsOf w = fieldsOf v ↔ w = v :=
  ⟨fun h => by rw [← wordOf_fieldsOf w, h, wordOf_fieldsOf], congrArg fieldsOf⟩

/-- An opcode's number as a word is the command word with nothing else in it. -/
theorem Opcode.zeroExtend_code (o : Opcode) : o.code.zeroExtend 32 = wordOf (blankFields o) := by
  cases o <;> rfl

/-- Under a mask a field is 0 when the opcode uses it, or when it is 0. -/
theorem field_and_mask {n : Nat} (x : BitVec n) (used : Bool) :
    (x &&& if used then 0#n else BitVec.allOnes n) = 0#n ↔ (used = false → x = 0#n) := by
  cases used <;> simp

/-- The opcode found under a number has that number, and no other opcode has it. -/
theorem Opcode.ofByte_eq_some_iff {b : BitVec 8} {o : Opcode} : Opcode.ofByte b = some o ↔ b = o.code :=
  ⟨fun h => (Opcode.code_of_ofByte h).symm, fun h => by rw [h, Opcode.ofByte_code]⟩

/-- A mask has 1 in the opcode, the reserved bits and the fields that the opcode does not use. -/
theorem Opcode.fieldsOf_mask (o : Opcode) : fieldsOf o.mask =
    { op := BitVec.allOnes 8
      rd := if o.uses.rd then 0#2 else BitVec.allOnes 2
      ra := if o.uses.ra then 0#2 else BitVec.allOnes 2
      rb := if o.uses.rb then 0#2 else BitVec.allOnes 2
      v := if o.uses.v then 0#1 else BitVec.allOnes 1
      c := if o.uses.c then 0#1 else BitVec.allOnes 1
      imm8 := if o.uses.imm8 then 0#8 else BitVec.allOnes 8
      reserved := BitVec.allOnes 8 } :=
  fieldsOf_wordOf _

/-- Field by field: the opcode and the reserved bits stay, an unused field stays, a used one is cleared. -/
theorem and_mask_eq_code_iff {w : Word} {o : Opcode} : w &&& o.mask = o.code.zeroExtend 32 ↔
    Opcode.ofByte (fieldsOf w).op = some o ∧ (fieldsOf w).unusedZero o.uses = true := by
  rw [Opcode.zeroExtend_code, ← fieldsOf_inj, fieldsOf_and, Opcode.fieldsOf_mask, fieldsOf_wordOf,
    blankFields, Fields.mk.injEq, Fields.unusedZero_iff, Opcode.ofByte_eq_some_iff]
  simp only [field_and_mask, BitVec.and_allOnes]
  tauto

/-! ### Unassigned opcodes -/

/-- Checks 3 and 4 of R65 report other errors. -/
theorem assemble_ne_badOpcode (o : Opcode) (f : Fields) (ops : List Word) :
    assemble o f ops ≠ .error .badOpcode := by
  by_cases hlen : ops.length = o.format.operandWords
  · by_cases hcr : o = .rdcr → f.imm8.toNat ≤ 6
    · obtain ⟨i, hi, -⟩ := assemble_ok_of_checks hlen hcr
      simp [hi]
    · obtain ⟨rfl, hgt⟩ := Classical.not_imp.mp hcr
      simp [assemble_rdcr_of_index_gt hlen (not_le.mp hgt)]
  · simp [assemble_of_length_ne hlen]

/-- A transaction is BAD_OPCODE exactly when no opcode has its low byte as number. -/
theorem decode_badOpcode_iff {t : Transaction} : decode t = .error .badOpcode ↔
    ∀ o : Opcode, o.code.toNat ≠ t.command.toNat % 256 := by
  refine ⟨fun h o hop => ?_, decode_of_unassigned⟩
  cases hzero : (fieldsOf t.command).unusedZero o.uses with
  | false => exact nomatch (decode_of_not_unusedZero hop hzero).symm.trans h
  | true => exact assemble_ne_badOpcode _ _ _ ((decode_eq_assemble hop hzero).symm.trans h)

theorem Opcode.mem_all (o : Opcode) : o ∈ Opcode.all := by cases o <;> decide

/-- A number that is no opcode's differs from each of the opcode map's. -/
theorem Opcode.forall_code_ne_iff {n : Nat} :
    (∀ o : Opcode, o.code.toNat ≠ n) ↔ ∀ k ∈ Opcode.all.map fun o => o.code.toNat, k ≠ n := by
  simp [Opcode.mem_all]

/-! ### The byte channel (20_memory.md R44) -/

theorem wordBytes_length (w : Word) : (wordBytes w).length = 4 := Machine.leBytes_length 4 w.toNat

theorem flatMap_wordBytes_length (ws : List Word) : (ws.flatMap wordBytes).length = 4 * ws.length := by
  induction ws with
  | nil => rfl
  | cons w ws ih =>
    rw [List.flatMap_cons, List.length_append, ih, wordBytes_length, List.length_cons]
    omega

/-- The bytes of word `j` lie from byte `4j` on. -/
theorem flatMap_wordBytes_getElem? {ws : List Word} {j k : Nat} {w : Word} (hj : ws[j]? = some w)
    (hk : k < 4) : (ws.flatMap wordBytes)[4 * j + k]? = (wordBytes w)[k]? := by
  induction ws generalizing j with
  | nil => simp at hj
  | cons w' ws ih =>
    rw [List.flatMap_cons]
    cases j with
    | zero =>
      obtain rfl : w' = w := by simpa using hj
      rw [Nat.mul_zero, Nat.zero_add, List.getElem?_append_left (by rwa [wordBytes_length])]
    | succ j =>
      rw [List.getElem?_append_right (by rw [wordBytes_length]; omega), wordBytes_length,
        show 4 * (j + 1) + k - 4 = 4 * j + k by omega]
      exact ih (by simpa using hj)

/-- The words are read back from their bytes. -/
theorem wordsOfBytes_flatMap_wordBytes (ws : List Word) :
    wordsOfBytes (ws.flatMap wordBytes) = some ws := by
  induction ws with
  | nil => rfl
  | cons w ws ih =>
    have hw : BitVec.ofNat 32 (Machine.leValue (wordBytes w)) = w := by
      rw [wordBytes, Machine.leValue_leBytes, Nat.mod_eq_of_lt (show w.toNat < 256 ^ 4 from w.isLt),
        BitVec.ofNat_toNat, BitVec.setWidth_eq]
    calc wordsOfBytes ((w :: ws).flatMap wordBytes)
        = (wordsOfBytes (ws.flatMap wordBytes)).map
            fun vs => BitVec.ofNat 32 (Machine.leValue (wordBytes w)) :: vs := rfl
      _ = some (w :: ws) := by rw [ih, hw, Option.map_some]

/-! ### The statements -/

namespace Machine

/-- Settles O1: the command's fields pass the checks of R65 and assemble to it. -/
theorem decodeOfEncodeIsIdentity : Obligations.DecodeOfEncodeIsIdentity := fun _ => decode_encode

/-- Settles O2: a transaction that decodes is the encoding of its command (O3), which therefore decodes. -/
theorem decodedCommandHasOneTransaction : Obligations.DecodedCommandHasOneTransaction := by
  intro t i h
  have hencode := encode_of_decode_ok h
  exact ⟨Instr.wellFormed_of_decode_encode (hencode.symm ▸ h), hencode⟩

/-- Settles O4: the mask leaves of the word its opcode byte, the reserved bits and the unused fields. -/
theorem maskSelectsOpcodeRow : Obligations.MaskSelectsOpcodeRow := fun _ _ => and_mask_eq_code_iff

/-- Settles O5: the decoder rejects with BAD_OPCODE when no opcode has the low byte as its number (O3), and
the numbers of R64 are those that R66 leaves out. -/
theorem unassignedOpcodesAreThoseListed : Obligations.UnassignedOpcodesAreThoseListed := by
  intro t
  have hbyte : t.command.toNat % 256 < 256 := Nat.mod_lt _ (by decide)
  rw [decode_badOpcode_iff, Opcode.forall_code_ne_iff]
  simp only [Opcode.all, Opcode.code, List.map_cons, List.map_nil, List.forall_mem_cons, List.not_mem_nil,
    IsEmpty.forall_iff, implies_true, BitVec.reduceToNat, and_true]
  constructor
  · omega
  · omega

/-- Settles O7: every word takes its four bytes in its place, and they read back as the word. -/
theorem byteChannelRoundTrip : Obligations.ByteChannelRoundTrip := by
  refine fun t => ⟨?length, fun j k w hj hk => ?byte, ?readBack⟩
  case length =>
    rw [Transaction.bytes, flatMap_wordBytes_length, Transaction.words, List.length_cons, Nat.add_comm]
  case byte =>
    rw [Transaction.bytes, Transaction.words, flatMap_wordBytes_getElem? hj hk, wordBytes, leBytes_getElem? _ hk]
  case readBack =>
    rw [Transaction.ofBytes, Transaction.bytes, wordsOfBytes_flatMap_wordBytes, Transaction.words]

/-- Settles O6: the model's decoder evaluated on the nine words. -/
theorem specWordsDecode : Obligations.SpecWordsDecode :=
  ⟨rfl, rfl, rfl, rfl, rfl, rfl, rfl, rfl, rfl⟩

end Machine
end Sys2Proof

/-! PROOFS. Runs and stream sizes (43_rle_codec.md sections 2 to 4): the maximal runs are the only split, any
records are expanded, the boundary at `MAXRUN`, and how long a stream is. -/

namespace Sys2Proof

/-- A record has at least 7 bits for the length. -/
theorem Config.one_lt_maxRun {p : Config} (h : p.legal = true) : 1 < p.maxRun := by
  obtain ⟨⟨hpos, hmod, -⟩, -⟩ := p.legal_iff.mp h
  exact Nat.one_lt_two_pow (by omega)

namespace Machine

/-! ### Maximal runs (43_rle_codec.md R124) -/

/-- Runs that are not empty and differ in value from their neighbours. -/
def MaximalSplit (rs : List Run) : Prop :=
  (∀ r ∈ rs, 1 ≤ r.length) ∧ rs.IsChain fun r r' => r.value ≠ r'.value

theorem maximalSplit_cons {r : Run} {rs : List Run} : MaximalSplit (r :: rs) ↔
    1 ≤ r.length ∧ (∀ r' ∈ rs.head?, r.value ≠ r'.value) ∧ MaximalSplit rs := by
  rw [MaximalSplit, MaximalSplit, List.forall_mem_cons, List.isChain_cons]
  tauto

theorem maximalSplit_maximalRuns (b : List Bool) : MaximalSplit (maximalRuns b) := by
  induction b with
  | nil => exact ⟨by simp, .nil⟩
  | cons x bs ih =>
    rcases maximalRuns_cons_cases x bs with ⟨-, heq⟩ | ⟨r, rs, hcons, -, heq⟩ | ⟨r, rs, hcons, hx, heq⟩
    · rw [heq]
      exact ⟨by simp, .singleton _⟩
    · rw [hcons, maximalSplit_cons] at ih
      obtain ⟨-, hne, hrest⟩ := ih
      rw [heq]
      exact maximalSplit_cons.mpr ⟨Nat.le_add_left 1 _, hne, hrest⟩
    · rw [hcons] at ih
      rw [heq]
      exact maximalSplit_cons.mpr ⟨le_rfl, by simpa using hx, ih⟩

/-- What begins with a run that is not empty begins with its bit. -/
theorem head?_expandRuns {rs : List Run} (h : ∀ r ∈ rs, 1 ≤ r.length) :
    (expandRuns rs).head? = rs.head?.map Run.value := by
  cases rs with
  | nil => rfl
  | cons r rs =>
    obtain ⟨k, hk⟩ := Nat.exists_eq_add_of_le' (h r List.mem_cons_self)
    simp [hk, List.replicate_succ]

/-- The bits of runs that are not empty and differ from their neighbours have no other maximal runs. -/
theorem maximalRuns_expandRuns {rs : List Run} (h : MaximalSplit rs) : maximalRuns (expandRuns rs) = rs := by
  induction rs with
  | nil => rfl
  | cons r rs ih =>
    obtain ⟨hpos, hne, hrest⟩ := maximalSplit_cons.mp h
    obtain ⟨k, hk⟩ := Nat.exists_eq_add_of_le' hpos
    have hhead : (expandRuns rs).head? ≠ some r.value := by
      obtain ⟨hpositive, -⟩ := hrest
      rw [head?_expandRuns hpositive, ne_eq, Option.map_eq_some_iff]
      rintro ⟨r', hr', heq⟩
      exact hne r' hr' heq.symm
    rw [expandRuns_cons, hk, maximalRuns_replicate_append hhead, ih hrest, ← hk]

/-! ### How many records (43_rle_codec.md R136) -/

/-- `ceil(n / m)` (43_rle_codec.md R136). -/
theorem ceil_eq_div_add {m : Nat} (h : 0 < m) (n : Nat) :
    (n + m - 1) / m = n / m + if n % m = 0 then 0 else 1 := by
  have hdiv := Nat.div_add_mod' n m
  have hmod := Nat.mod_lt n h
  split
  next hzero =>
    rw [Nat.add_zero]
    refine Nat.div_eq_of_lt_le ?_ ?_
    · omega
    · rw [Nat.succ_mul]
      omega
  next hrest =>
    refine Nat.div_eq_of_lt_le ?_ ?_
    · rw [Nat.succ_mul]
      omega
    · rw [Nat.succ_mul, Nat.succ_mul]
      omega

theorem splitRun_length {maxRun : Nat} (h : 0 < maxRun) (r : Run) :
    (splitRun maxRun r).length = (r.length + maxRun - 1) / maxRun := by
  rw [ceil_eq_div_add h, splitRun, List.length_append, List.length_replicate]
  split <;> rfl

theorem recordRuns_length {maxRun : Nat} (h : 0 < maxRun) (b : List Bool) :
    (recordRuns maxRun b).length =
      ((maximalRuns b).map fun r => (r.length + maxRun - 1) / maxRun).sum := by
  simp only [recordRuns, List.length_flatMap, splitRun_length h]

/-- Runs that records carry have one bit each at least, and `MAXRUN` bits at most. -/
theorem totalLength_bounds {maxRun : Nat} {rs : List Run} (h : ∀ r ∈ rs, r.FitsRecord maxRun) :
    rs.length ≤ totalLength rs ∧ totalLength rs ≤ rs.length * maxRun := by
  induction rs with
  | nil => simp
  | cons r rs ih =>
    obtain ⟨⟨hpos, hle⟩, hrest⟩ := List.forall_mem_cons.mp h
    obtain ⟨hleast, hmost⟩ := ih hrest
    rw [totalLength_cons, List.length_cons, Nat.succ_mul]
    omega

theorem recordRuns_length_bounds {maxRun : Nat} (h : 0 < maxRun) (b : List Bool) :
    (b.length + maxRun - 1) / maxRun ≤ (recordRuns maxRun b).length ∧
      (recordRuns maxRun b).length ≤ b.length := by
  have htotal : totalLength (recordRuns maxRun b) = b.length := by
    rw [← expandRuns_length, expandRuns_recordRuns]
  obtain ⟨hleast, hmost⟩ := totalLength_bounds (recordRuns_fitsRecord h b)
  rw [htotal] at hleast hmost
  refine ⟨?_, hleast⟩
  rwa [← Nat.ceilDiv_eq_add_pred_div, ceilDiv_le_iff_le_mul h, Nat.mul_comm]

theorem recordRuns_replicate {maxRun : Nat} (n : Nat) (v : Bool) :
    recordRuns maxRun (List.replicate n v) = splitRun maxRun { value := v, length := n } := by
  simpa [recordRuns] using recordRuns_replicate_append (bs := []) (v := v) maxRun (by simp) n

theorem decodedRuns_fitsRecord (p : Config) (w : List Byte) (k : Nat) :
    ∀ r ∈ decodedRuns p w k, r.FitsRecord p.maxRun := by
  intro r hr
  obtain ⟨j, -, rfl⟩ := List.mem_map.mp hr
  exact ⟨runOfRecord_length_pos p.maxRun_pos _, runOfRecord_length_le p.maxRun_pos _⟩

/-- The size field and one record for each bit, at most. -/
theorem rleEncode_length_le (p : Config) (b : List Bool) :
    (rleEncode p b).length ≤ p.headerBytes + p.recordBytes * b.length := by
  obtain ⟨-, hmost⟩ := recordRuns_length_bounds p.maxRun_pos b
  rw [rleEncode_length, Nat.mul_comm]
  exact Nat.add_le_add_left (Nat.mul_le_mul_left _ hmost) _

/-! ### The statements -/

/-- Settles O44: what the decoder reads from such a stream are the runs (`rleDecode_of_records`). -/
theorem decoderExpandsAnyRecords : Obligations.DecoderExpandsAnyRecords := by
  intro p rs n hlegal hrs hn
  have hdecode := rleDecode_of_records hlegal hrs hn
  exact ⟨fun htotal => hdecode.trans (if_pos htotal.symm), fun hne => hdecode.trans (if_neg (Ne.symm hne))⟩

/-- Settles O40: a list of runs with the three properties is the list of the maximal runs of its bits. -/
theorem maximalRunsAreTheOnlySplit : Obligations.MaximalRunsAreTheOnlySplit := by
  refine fun b => ⟨⟨expandRuns_maximalRuns b, maximalSplit_maximalRuns b⟩, fun rs hspell hpos hchain => ?_⟩
  rw [← hspell, maximalRuns_expandRuns ⟨hpos, hchain⟩]

/-- Settles O48: `MAXRUN` bits split into the full record run alone, and one bit more is a run of its own after
it; the full run has length field 0. -/
theorem runLengthBoundary : Obligations.RunLengthBoundary := by
  intro p v hlegal
  have hone := Config.one_lt_maxRun hlegal
  have hfull : splitRun p.maxRun { value := v, length := p.maxRun } = [{ value := v, length := p.maxRun }] := by
    simpa [splitRun] using splitRun_add_maxRun p.maxRun_pos v 0
  have hmore : splitRun p.maxRun { value := v, length := p.maxRun + 1 } =
      [{ value := v, length := p.maxRun }, { value := v, length := 1 }] := by
    rw [splitRun_add_maxRun p.maxRun_pos, splitRun_of_lt Nat.one_pos hone]
  refine ⟨hfull, hmore, ?_, ?_⟩
  · rw [rleEncode, records, recordRuns_replicate, hfull, List.length_replicate]
    simp [recordBytes, recordOf, lengthField_maxRun]
  · rw [rleEncode, records, recordRuns_replicate, hmore, List.length_replicate]
    simp [recordBytes, recordOf, lengthField_maxRun, lengthField_of_lt hone]

/-- Settles O49: the maximal runs split into `ceil(L / MAXRUN)` record runs each, and a record run carries 1 to
`MAXRUN` bits, in the encoder and in the decoder. -/
theorem streamSizeBounds : Obligations.StreamSizeBounds := by
  refine fun p _ => ⟨fun b => ⟨?exact, ?least, rleEncode_length_le p b⟩, fun n v => ?equalBits,
    fun w x hdecode => ?decoded⟩
  case exact => rw [rleEncode_length, recordRuns_length p.maxRun_pos, Nat.mul_comm]
  case least =>
    obtain ⟨hleast, -⟩ := recordRuns_length_bounds p.maxRun_pos b
    rw [rleEncode_length, Nat.mul_comm p.recordBytes]
    exact Nat.add_le_add_left (Nat.mul_le_mul_right _ hleast) _
  case equalBits =>
    rw [rleEncode_length, recordRuns_replicate, splitRun_length p.maxRun_pos, Nat.mul_comm]
  case decoded =>
    rcases rleDecode_cases p w with ⟨-, heq⟩ | ⟨-, -, heq⟩ | ⟨-, -, -, heq⟩ | ⟨-, -, -, heq⟩
    · exact nomatch heq.symm.trans hdecode
    · exact nomatch heq.symm.trans hdecode
    · exact nomatch heq.symm.trans hdecode
    · rw [← Except.ok.inj (heq.symm.trans hdecode), expandRuns_length]
      simpa using totalLength_bounds
        (decodedRuns_fitsRecord p w ((w.length - p.headerBytes) / p.recordBytes))

end Machine
end Sys2Proof

/-! PROOFS. What every step keeps (10_state.md R20 to R25, 60_exceptions.md R172 to R176): what a command can
do, said once for all 22, and from it the invariant of the state, the one response, the errors, the
destinations and the synced flags. -/

namespace Sys2Proof.Machine

/-! ### Values that a frame register can hold (10_state.md R20) -/

namespace MatrixValue

section
variable {p : Config} {a b m : MatrixValue}

theorem fits_zero {r c : Nat} (hr : r < 2 ^ 32) (hc : c < 2 ^ 32) (hcap : r * c ≤ p.bitsCap) :
    (zero r c).fits p :=
  ⟨List.length_replicate, hr, hc, hcap⟩

/-- A write of one cell keeps the dimensions and the number of bits. -/
theorem fits_of_withBit {row col : Nat} {v : Bool} (ha : a.fits p) (h : a.withBit row col v = .ok m) :
    m.fits p := by
  obtain ⟨hwf, hdims⟩ := ha
  obtain ⟨-, -, heq⟩ | ⟨-, heq⟩ := a.withBit_cases row col v
  · obtain rfl := Except.ok.inj (heq.symm.trans h)
    exact ⟨List.length_set.trans hwf, hdims⟩
  · exact nomatch heq.symm.trans h

theorem fits_of_window_withBit {n : Window} {row col : Nat} {v : Bool} (ha : a.fits p)
    (h : n.withBit a row col v = .ok m) : m.fits p := by
  by_cases hin : row < n.subRows ∧ col < n.subCols
  · obtain ⟨hr, hc⟩ := hin
    rw [Window.withBit_inside hr hc] at h
    exact fits_of_withBit ha h
  · rw [Window.withBit_outside hin] at h
    exact nomatch h

/-- Downsampling makes no dimension larger. -/
theorem fits_downsample (ha : a.fits p) (h v : Nat) : (a.downsample h v).fits p := by
  obtain ⟨-, hr, hc, hcap⟩ := ha
  have hrows : a.rows / v ≤ a.rows := Nat.div_le_self _ _
  have hcols : a.cols / h ≤ a.cols := Nat.div_le_self _ _
  exact ⟨downsample_wf, hrows.trans_lt hr, hcols.trans_lt hc, (Nat.mul_le_mul hrows hcols).trans hcap⟩

theorem fits_xor (ha : a.fits p) (hb : b.fits p) (hdims : a.rows = b.rows ∧ a.cols = b.cols) :
    (a.xor b).fits p := by
  obtain ⟨hwf, hbounds⟩ := ha
  obtain ⟨hwf', -⟩ := hb
  obtain ⟨hr, hc⟩ := hdims
  exact ⟨xor_wf hwf hwf' hr hc, hbounds⟩

/-- One row holds as many bits as the capacity allows, which a word can count (00_scope.md R5). -/
theorem fits_rowOf (hlegal : p.legal = true) {x : List Bool} (hx : x.length ≤ p.bitsCap) :
    (rowOf x).fits p := by
  obtain ⟨-, -, -, hcap, -⟩ := p.legal_iff.mp hlegal
  have hcells : 1 * x.length = x.length := Nat.one_mul _
  exact ⟨hcells.symm, Nat.one_lt_two_pow (by decide), hx.trans_lt hcap, hcells.trans_le hx⟩

/-- A matrix value of the configured dimensions fits a frame register (00_scope.md R6). -/
theorem fits_of_context (hlegal : p.legal = true) {c : Ctx} (hwf : m.wf) (hr : m.rows = p.rows c)
    (hc : m.cols = p.cols c) : m.fits p := by
  obtain ⟨-, -, hframes, -⟩ := p.legal_iff.mp hlegal
  obtain ⟨hrows, hcols, hbits, -⟩ := hframes c
  exact ⟨hwf, by rwa [hr], by rwa [hc], by rwa [hr, hc]⟩

end
end MatrixValue

/-! ### Writes keep the invariant -/

theorem State.wf.setFrame {s : State} (h : s.wf) (d : FReg) {m : MatrixValue} (hm : m.fits s.cfg) :
    (s.setFrame d m).wf := by
  obtain ⟨hlegal, -, -, henc, hdec⟩ := id h
  refine State.wf_of_registers hlegal (fun r => ?_) h.stream_fits henc hdec
  by_cases hr : r = d
  · rw [hr, State.setFrame_frame_same]
    exact hm
  · rw [State.setFrame_frame_ne s d m hr]
    exact h.frame_fits r

theorem State.wf.setStream {s : State} (h : s.wf) (d : WReg) {b : List Byte} (hb : StreamFits s.cfg b) :
    (s.setStream d b).wf := by
  obtain ⟨hlegal, -, -, henc, hdec⟩ := id h
  refine State.wf_of_registers hlegal h.frame_fits (fun r => ?_) henc hdec
  by_cases hr : r = d
  · rw [hr, State.setStream_stream_same]
    exact hb
  · rw [State.setStream_stream_ne s d b hr]
    exact h.stream_fits r

theorem State.wf.setContext {s : State} (h : s.wf) {c : Ctx} {x : DeltaContext} (hx : x.wf s.cfg c) :
    (s.setContext c x).wf := by
  obtain ⟨hlegal, hframes, hstreams, henc, hdec⟩ := h
  cases c
  · exact ⟨hlegal, hframes, hstreams, hx, hdec⟩
  · exact ⟨hlegal, hframes, hstreams, henc, hx⟩

/-! ### What a command writes -/

/-- From `s` to `u` nothing changed that no command changes: the parameters, the port, the invariant and a
synced flag that is set (10_state.md R25, R32). -/
structure Keeps (s u : State) : Prop where
  cfg : u.cfg = s.cfg
  input : u.input = s.input
  responses : u.responses = s.responses
  wf : s.wf → u.wf
  synced : ∀ c, s.synced c = true → u.synced c = true

/-- From `s` to `u` the command `i` wrote at most its destinations (30_encoding.md R64, 60_exceptions.md
R175). -/
structure Writes (i : Instr) (s u : State) : Prop extends Keeps s u where
  frame : ∀ r, frameDestination i ≠ some r → u.frame r = s.frame r
  stream : ∀ r, streamDestination i ≠ some r → u.stream r = s.stream r
  context : ∀ c, contextDestination i ≠ some c → u.context c = s.context c

protected theorem Keeps.refl (s : State) : Keeps s s := ⟨rfl, rfl, rfl, id, fun _ => id⟩

namespace Writes

section
variable {i : Instr} {s u : State}

protected theorem refl (i : Instr) (s : State) : Writes i s s :=
  ⟨.refl s, fun _ _ => rfl, fun _ _ => rfl, fun _ _ => rfl⟩

theorem setFrame (h : Writes i s u) {d : FReg} {m : MatrixValue} (hd : frameDestination i = some d)
    (hm : s.wf → m.fits s.cfg) : Writes i s (u.setFrame d m) :=
  { h with
    frame := fun r hr => (State.setFrame_frame_ne u d m fun heq =>
      hr (hd.trans (congrArg some heq.symm))).trans (h.frame r hr)
    context := fun c hc => (State.setFrame_context u d m c).trans (h.context c hc)
    wf := fun hs => (h.wf hs).setFrame d (h.cfg.symm ▸ hm hs)
    synced := fun c hc => (congrArg DeltaContext.synced (State.setFrame_context u d m c)).trans
      (h.synced c hc) }

theorem setStream (h : Writes i s u) {d : WReg} {b : List Byte} (hd : streamDestination i = some d)
    (hb : StreamFits s.cfg b) : Writes i s (u.setStream d b) :=
  { h with
    stream := fun r hr => (State.setStream_stream_ne u d b fun heq =>
      hr (hd.trans (congrArg some heq.symm))).trans (h.stream r hr)
    context := fun c hc => (State.setStream_context u d b c).trans (h.context c hc)
    wf := fun hs => (h.wf hs).setStream d (h.cfg.symm ▸ hb)
    synced := fun c hc => (congrArg DeltaContext.synced (State.setStream_context u d b c)).trans
      (h.synced c hc) }

/-- A context is only ever written Synced (10_state.md R25). -/
theorem initialise (h : Writes i s u) {c : Ctx} {m : MatrixValue} (hc : contextDestination i = some c)
    (hm : s.wf → m.wf ∧ m.rows = s.cfg.rows c ∧ m.cols = s.cfg.cols c) :
    Writes i s (u.initialise c m) where
  cfg := (State.setContext_cfg u c _).trans h.cfg
  input := (State.setContext_input u c _).trans h.input
  responses := (State.setContext_responses u c _).trans h.responses
  frame r hr := (State.setContext_frame u c _ r).trans (h.frame r hr)
  stream r hr := (State.setContext_stream u c _ r).trans (h.stream r hr)
  context c' hc' :=
    (State.setContext_context_ne u c _ fun heq =>
      hc' (hc.trans (congrArg some heq.symm))).trans (h.context c' hc')
  wf hs := (h.wf hs).setContext (h.cfg.symm ▸ hm hs)
  synced c' hc' := by
    by_cases heq : c' = c
    · rw [heq, State.synced, State.initialise_eq, State.setContext_context_same]
    · rw [State.synced, State.initialise_eq, State.setContext_context_ne u c _ heq]
      exact h.synced c' hc'

end
end Writes

/-! ### How a command ends -/

/-- `x` is an end that the command `i` can come to in `s`: an OK response after its writes, or, in `s`
itself, the response of an error of its row of 60_exceptions.md R176. An RDCR that no transaction encodes
has an error outside its row (log 13). -/
inductive EndsIn (i : Instr) (s : State) : Result → Prop
  | answered {v : Nat} {u : State} (h : Writes i s u) : EndsIn i s (answer v u)
  | rejected {e : Info} (h : i.wellFormed = true → e ∈ errorsOf i) : EndsIn i s (reject e s)

namespace EndsIn

section
variable {i : Instr} {s : State}

/-- A command that writes nothing. -/
theorem read {v : Nat} : EndsIn i s (answer v s) := answered (.refl i s)

theorem writesFrame {d : FReg} {m : MatrixValue} (hd : frameDestination i = some d)
    (hm : s.wf → m.fits s.cfg) : EndsIn i s (answer 0 (s.setFrame d m)) :=
  answered ((Writes.refl i s).setFrame hd hm)

theorem writesStream {d : WReg} {b : List Byte} (hd : streamDestination i = some d)
    (hb : StreamFits s.cfg b) : EndsIn i s (answer 0 (s.setStream d b)) :=
  answered ((Writes.refl i s).setStream hd hb)

/-- A check of the command's own, which rejects with an error of its row. -/
theorem of_check {p : Prop} [Decidable p] {x : Result} {e : Info} (hx : p → EndsIn i s x)
    (he : e ∈ errorsOf i := by simp [errorsOf]) : EndsIn i s (if p then x else reject e s) := by
  split
  next h => exact hx h
  next => exact rejected fun _ => he

/-- A checked helper, whose errors are in the command's row. -/
theorem of_orReject {α : Type} {x : Except Info α} {k : α → Result}
    (herror : ∀ e, x = .error e → e ∈ errorsOf i) (hok : ∀ a, x = .ok a → EndsIn i s (k a)) :
    EndsIn i s (orReject x s k) := by
  obtain ⟨a, ha, heq⟩ | ⟨e, he, heq⟩ := orReject_cases x s k
  · exact heq ▸ hok a ha
  · exact heq ▸ rejected fun _ => herror e he

end
end EndsIn

/-! ### The errors of the checked helpers -/

theorem MatrixValue.bitAt_error {m : MatrixValue} {row col : Nat} {e : Info}
    (h : m.bitAt row col = .error e) : e ∈ [Info.oobMatrix] := by
  obtain ⟨-, -, heq⟩ | ⟨-, heq⟩ := m.bitAt_cases row col
  · exact nomatch heq.symm.trans h
  · simp [← Except.error.inj (heq.symm.trans h)]

theorem MatrixValue.withBit_error {m : MatrixValue} {row col : Nat} {v : Bool} {e : Info}
    (h : m.withBit row col v = .error e) : e ∈ [Info.oobMatrix] := by
  obtain ⟨-, -, heq⟩ | ⟨-, heq⟩ := m.withBit_cases row col v
  · exact nomatch heq.symm.trans h
  · simp [← Except.error.inj (heq.symm.trans h)]

theorem Window.bitAt_error {n : Window} {m : MatrixValue} {row col : Nat} {e : Info}
    (h : n.bitAt m row col = .error e) : e ∈ [Info.oobView, Info.oobMatrix] := by
  by_cases hin : row < n.subRows ∧ col < n.subCols
  · obtain ⟨hr, hc⟩ := hin
    rw [Window.bitAt_inside hr hc] at h
    exact List.mem_cons_of_mem _ (MatrixValue.bitAt_error h)
  · rw [Window.bitAt_outside hin] at h
    simp [← Except.error.inj h]

theorem Window.withBit_error {n : Window} {m : MatrixValue} {row col : Nat} {v : Bool} {e : Info}
    (h : n.withBit m row col v = .error e) : e ∈ [Info.oobView, Info.oobMatrix] := by
  by_cases hin : row < n.subRows ∧ col < n.subCols
  · obtain ⟨hr, hc⟩ := hin
    rw [Window.withBit_inside hr hc] at h
    exact List.mem_cons_of_mem _ (MatrixValue.withBit_error h)
  · rw [Window.withBit_outside hin] at h
    simp [← Except.error.inj h]

theorem Window.scan_error {n : Window} {m : MatrixValue} {e : Info} (h : n.scan m = .error e) :
    e ∈ [Info.oobMatrix] := by
  obtain ⟨bits, heq, -⟩ | ⟨heq, -⟩ := n.scan_cases m
  · exact nomatch heq.symm.trans h
  · simp [← Except.error.inj (heq.symm.trans h)]

theorem rleDecode_error {p : Config} {w : List Byte} {e : Info} (h : rleDecode p w = .error e) :
    e ∈ [Info.shortHeader, Info.partialRecord, Info.lengthMismatch] := by
  rcases rleDecode_cases p w with ⟨-, heq⟩ | ⟨-, -, heq⟩ | ⟨-, -, -, heq⟩ | ⟨-, -, -, heq⟩
  · simp [← Except.error.inj (heq.symm.trans h)]
  · simp [← Except.error.inj (heq.symm.trans h)]
  · simp [← Except.error.inj (heq.symm.trans h)]
  · exact nomatch heq.symm.trans h

/-! ### The commands -/

/-- A window's packed bits take the bytes that VEXP has checked (42_window_export.md R114). -/
theorem streamFits_packBits_scan {p : Config} {n : Window} {m : MatrixValue} {bits : List Bool}
    (hcap : packedLength n.cells ≤ p.bytesCap) (h : n.scan m = .ok bits) :
    StreamFits p (packBits bits) := by
  obtain ⟨hlen, -⟩ := Window.scanFrom_ok h
  rwa [StreamFits, packBits_length, hlen]

/-- The frame that DFDEC reconstructs is a baseline of the decoder (44_delta_frame.md R143). -/
theorem State.wf.applyDelta_context {s : State} (hs : s.wf) {x : List Bool}
    (hx : x.length = s.dec.latest.rows * s.dec.latest.cols) :
    (applyDelta s.dec.latest x).wf ∧ (applyDelta s.dec.latest x).rows = s.cfg.rows .dec ∧
      (applyDelta s.dec.latest x).cols = s.cfg.cols .dec := by
  obtain ⟨-, -, -, -, hwf, hdims⟩ := hs
  exact ⟨applyDelta_wf hwf hx, hdims⟩

theorem State.wf.applyDelta_fits {s : State} (hs : s.wf) {x : List Bool}
    (hx : x.length = s.dec.latest.rows * s.dec.latest.cols) :
    (applyDelta s.dec.latest x).fits s.cfg := by
  obtain ⟨hwf, hr, hc⟩ := hs.applyDelta_context hx
  obtain ⟨hlegal, -⟩ := hs
  exact MatrixValue.fits_of_context hlegal hwf hr hc

/-- The indices that decoding lets through are control registers (30_encoding.md R65 step 4). -/
theorem State.exists_controlRegister (s : State) {k : Nat} (h : k ≤ 6) :
    ∃ v, s.controlRegister k = some v := by
  interval_cases k <;> exact ⟨_, rfl⟩

open EndsIn in
/-- Every command of 30_encoding.md R64 ends in one of these ways. -/
theorem exec_endsIn (i : Instr) (s : State) : EndsIn i s (exec i s) := by
  cases i with
  | fnew fd rows cols =>
    exact of_check fun hcap => writesFrame rfl fun _ =>
      MatrixValue.fits_zero rows.isLt cols.isLt (bitsFit_iff.mp hcap)
  | fget fa row col =>
    exact of_orReject (fun _ => MatrixValue.bitAt_error) fun _ _ => read
  | fset fd v row col =>
    exact of_orReject (fun _ => MatrixValue.withBit_error) fun m hm =>
      writesFrame rfl fun hs => MatrixValue.fits_of_withBit (hs.frame_fits fd) hm
  | feq fa fb => exact read
  | fdown fd hScale vScale =>
    by_cases hzero : hScale.toNat = 0 ∨ vScale.toNat = 0
    · exact exec_fdown_of_zero hzero ▸ rejected fun _ => by simp [errorsOf]
    · rw [exec_fdown_of_ne_zero (by tauto) (by tauto)]
      exact writesFrame rfl fun hs => MatrixValue.fits_downsample (hs.frame_fits fd) _ _
  | frows fa => exact read
  | fcols fa => exact read
  | fxor fd fa fb =>
    exact of_check fun hdims => writesFrame rfl fun hs =>
      MatrixValue.fits_xor (hs.frame_fits fa) (hs.frame_fits fb) (MatrixValue.sameDims_iff.mp hdims)
  | fxora fd fa =>
    exact of_check fun hdims => writesFrame rfl fun hs =>
      MatrixValue.fits_xor (hs.frame_fits fd) (hs.frame_fits fa) (MatrixValue.sameDims_iff.mp hdims)
  | vget fa sr sc nr nc row col =>
    exact of_orReject (fun _ => Window.bitAt_error) fun _ _ => read
  | vset fd v sr sc nr nc row col =>
    exact of_orReject (fun _ => Window.withBit_error) fun m hm =>
      writesFrame rfl fun hs => MatrixValue.fits_of_window_withBit (hs.frame_fits fd) hm
  | vexp wd fa sr sc nr nc =>
    exact of_check fun hcap =>
      of_orReject (fun _ he => List.mem_cons_of_mem _ (Window.scan_error he)) fun bits hbits =>
        writesStream rfl (streamFits_packBits_scan (bytesFit_iff.mp hcap) hbits)
  | rleenc wd fa =>
    exact of_check fun _ => of_check fun hcap => writesStream rfl (bytesFit_iff.mp hcap)
  | rledec fd wa =>
    exact of_orReject (fun _ he => List.mem_append_left [Info.fCap] (rleDecode_error he)) fun x _ =>
      of_check fun hcap => writesFrame rfl fun ⟨hlegal, _⟩ =>
        MatrixValue.fits_rowOf hlegal (bitsFit_iff.mp hcap)
  | dfinit c fa =>
    exact of_check fun hdims => answered ((Writes.refl _ s).initialise rfl fun hs =>
      ⟨(hs.frame_fits fa).left, MatrixValue.fitsContext_iff.mp hdims⟩)
  | dfenc wd fa =>
    exact of_check fun hsync => of_check fun hdims => of_check fun hcap =>
      State.setLatest_eq_initialise hsync _ ▸ answered (((Writes.refl _ s).initialise rfl fun hs =>
        ⟨(hs.frame_fits fa).left, MatrixValue.fitsContext_iff.mp hdims⟩).setStream rfl
          (bytesFit_iff.mp hcap))
  | dfdec fd wa =>
    exact of_check fun hsync => of_orReject (fun _ he => List.mem_cons_of_mem _
      (List.mem_append_left [Info.frameSize] (rleDecode_error he))) fun x _ => of_check fun hlen =>
        State.setLatest_eq_initialise hsync _ ▸ answered (((Writes.refl _ s).initialise rfl fun hs =>
          hs.applyDelta_context hlen).setFrame rfl fun hs => hs.applyDelta_fits hlen)
  | wclr wd => exact writesStream rfl (Nat.zero_le _)
  | wpush wd byte =>
    exact of_check fun hcap => writesStream rfl (by simpa using hcap)
  | wlen wa => exact read
  | wget wa idx =>
    cases hbyte : (s.stream wa)[idx.toNat]? with
    | some b => exact exec_wget_inside hbyte ▸ read
    | none =>
      exact exec_wget_outside (List.getElem?_eq_none_iff.mp hbyte) ▸ rejected fun _ => by simp [errorsOf]
  | rdcr k =>
    simp only [exec, execRdcr]
    split
    next => exact read
    next hnone =>
      refine rejected fun hk => ?_
      obtain ⟨v, hv⟩ := s.exists_controlRegister (of_decide_eq_true hk)
      exact nomatch hnone.symm.trans hv

/-! ### What follows for every command -/

theorem Status.code_ne_seven (x : Status) : x.code ≠ 7#3 := by cases x <;> decide

section
variable {i : Instr} {s t : State}

/-- A command has a next state (60_exceptions.md R174). -/
theorem exists_exec_eq_next (i : Instr) (s : State) : ∃ t, exec i s = .next t := by
  cases hx : exec i s with
  | next t => exact ⟨t, rfl⟩
  | fault e => exact nomatch e
  | refused e => exact nomatch hx ▸ exec_endsIn i s

/-- The next state of a command is that of its writes, or of its rejection, with one response more. -/
theorem exec_next_cases (h : exec i s = .next t) :
    (∃ u v, Writes i s u ∧ t = u.respond (Response.ok v)) ∨
      ∃ e, (i.wellFormed = true → e ∈ errorsOf i) ∧ t = s.respond (Response.error e) := by
  have hends := exec_endsIn i s
  rw [h] at hends
  generalize hx : (Host.Outcome.next t : Result) = x at hends
  cases hends with
  | @answered v u hu => exact .inl ⟨u, v, hu, answer_eq_next.mp hx.symm⟩
  | @rejected e he => exact .inr ⟨e, he, reject_eq_next.mp hx.symm⟩

/-- But for its response, every next state of a command is one that its writes may give. -/
theorem exec_writes (h : exec i s = .next t) :
    ∃ u r, Writes i s u ∧ r.status ≠ 7#3 ∧ t = u.respond r := by
  obtain ⟨u, v, hu, ht⟩ | ⟨e, -, ht⟩ := exec_next_cases h
  · exact ⟨u, _, hu, Status.code_ne_seven .ok, ht⟩
  · exact ⟨s, _, .refl i s, Status.code_ne_seven _, ht⟩

theorem exec_keeps_wf (hs : s.wf) (h : exec i s = .next t) : t.wf := by
  obtain ⟨u, r, hu, -, rfl⟩ := exec_writes h
  exact hu.wf hs

end

/-! ### Steps (20_memory.md R47, R50) -/

section
variable {s t : State} {tr : Transaction} {rest : List HostEvent} {i : Instr}

theorem step_of_silent (hlegal : s.cfg.legal = true) (hinput : s.input = []) : step s = .next s := by
  simp [step, takeEvent, hlegal, hinput]

theorem step_of_reset (hlegal : s.cfg.legal = true) (hinput : s.input = .reset :: rest) :
    step s = .next ({ s with input := rest } : State).assertReset := by
  simp [step, takeEvent, hlegal, hinput]

theorem step_of_decode_ok (hlegal : s.cfg.legal = true) (hinput : s.input = .command tr :: rest)
    (hdecode : decode tr = .ok i) : step s = exec i { s with input := rest } := by
  simp [step, takeEvent, hlegal, hinput, hdecode]

/-- A transaction gets one response, from its command or from decoding. -/
theorem step_of_command (hlegal : s.cfg.legal = true) (hinput : s.input = .command tr :: rest) :
    ∃ u r, step s = .next (u.respond r) ∧ Keeps { s with input := rest } u ∧ r.status ≠ 7#3 := by
  cases hdecode : decode tr with
  | ok i =>
    obtain ⟨t, ht⟩ := exists_exec_eq_next i { s with input := rest }
    obtain ⟨u, r, hu, hr, rfl⟩ := exec_writes ht
    exact ⟨u, r, (step_of_decode_ok hlegal hinput hdecode).trans ht, hu.toKeeps, hr⟩
  | error e =>
    exact ⟨{ s with input := rest }, ⟨6#3, _⟩, step_of_decode_error hlegal hinput hdecode, .refl _,
      Status.code_ne_seven .illegalCommand⟩

/-- Every next state of a step, by what the host presents. -/
theorem step_next_cases (h : step s = .next t) : s.cfg.legal = true ∧
    ((s.input = [] ∧ t = s) ∨
    (∃ rest, s.input = .reset :: rest ∧ t = ({ s with input := rest } : State).assertReset) ∨
    ∃ tr rest u r, s.input = .command tr :: rest ∧ Keeps { s with input := rest } u ∧ t = u.respond r) := by
  have hlegal : s.cfg.legal = true := by
    by_contra hillegal
    exact nomatch (step_refused_of_not_legal hillegal).symm.trans h
  refine ⟨hlegal, ?_⟩
  match hinput : s.input with
  | [] =>
    rw [step_of_silent hlegal hinput] at h
    exact .inl ⟨rfl, (Host.Outcome.next.inj h).symm⟩
  | .reset :: rest =>
    rw [step_of_reset hlegal hinput] at h
    exact .inr (.inl ⟨rest, rfl, (Host.Outcome.next.inj h).symm⟩)
  | .command tr :: rest =>
    obtain ⟨u, r, hstep, hu, -⟩ := step_of_command hlegal hinput
    rw [hstep] at h
    exact .inr (.inr ⟨tr, rest, u, r, rfl, hu, (Host.Outcome.next.inj h).symm⟩)

end

theorem wf_resetOf {p : Config} (h : p.legal = true) : (State.resetOf p).wf := by
  refine State.wf_of_registers h (fun r => ?frame) (fun r => ?stream) ⟨List.length_replicate, rfl, rfl⟩
    ⟨List.length_replicate, rfl, rfl⟩
  case frame =>
    rw [State.resetOf_frame]
    exact MatrixValue.fits_zero (by decide) (by decide) (Nat.zero_le _)
  case stream =>
    rw [State.resetOf_stream]
    exact Nat.zero_le _

/-! ### The statements -/

/-- Settles O14: a command keeps the invariant by its writes (`exec_endsIn`), reset restores it, and the
other steps touch no register. -/
theorem stepKeepsWellFormed : Obligations.StepKeepsWellFormed := by
  intro s t hs h
  obtain ⟨hlegal, ⟨-, rfl⟩ | ⟨rest, -, rfl⟩ | ⟨tr, rest, u, r, -, hu, rfl⟩⟩ := step_next_cases h
  · exact hs
  · exact wf_resetOf hlegal
  · exact hu.wf hs

/-- Settles O15: `step_of_command`, and nothing of the port but the transaction is taken. -/
theorem everyTransactionGetsOneResponse : Obligations.EveryTransactionGetsOneResponse := by
  intro s tr rest hlegal hinput
  obtain ⟨u, r, hstep, hu, hr⟩ := step_of_command hlegal hinput
  exact ⟨u.respond r, r, hstep, congrArg (· ++ [r]) hu.responses, hr, hu.input, hu.cfg⟩

/-- Settles O17: a rejection has an error of the command's row, and every other end has status OK. -/
theorem errorsPerCommand : Obligations.ErrorsPerCommand := by
  intro i s t hi h
  obtain ⟨u, v, hu, rfl⟩ | ⟨e, he, rfl⟩ := exec_next_cases h
  · exact ⟨Response.ok v, congrArg (· ++ [_]) hu.responses, .inl (Response.ok_status v)⟩
  · exact ⟨Response.error e, rfl, .inr ⟨e, he hi, rfl⟩⟩

/-- Settles O19: the next state is that of the command's writes with a response, which is no register. -/
theorem commandsChangeOnlyTheirDestinations : Obligations.CommandsChangeOnlyTheirDestinations := by
  intro i s t h
  obtain ⟨u, r, hu, -, rfl⟩ := exec_writes h
  exact ⟨hu.cfg, hu.input, hu.frame, hu.stream,
    fun c hc => (State.respond_context u r c).trans (hu.context c hc)⟩

/-- Settles O21: a command keeps a synced flag that is set, and so does waiting. -/
theorem syncedFallsOnlyByReset : Obligations.SyncedFallsOnlyByReset := by
  intro s t c h hset hclear
  obtain ⟨-, ⟨-, rfl⟩ | ⟨rest, hinput, -⟩ | ⟨tr, rest, u, r, -, hu, rfl⟩⟩ := step_next_cases h
  · exact absurd hset (by simp [hclear])
  · exact ⟨rest, hinput⟩
  · have hkept : (u.respond r).synced c = true := by
      cases c with
      | enc => exact hu.synced .enc hset
      | dec => exact hu.synced .dec hset
    exact absurd hkept (by simp [hclear])

/-- Settles O8: without the response of decoding there is nothing around `exec`. -/
theorem stepRunsTheDecodedCommand : Obligations.StepRunsTheDecodedCommand :=
  fun _ _ _ _ => step_of_decode_ok

/-- Settles O9: `assertReset` is the reset state with the port of the state before (log 4). -/
theorem resetEventRestoresResetState : Obligations.ResetEventRestoresResetState :=
  fun _ _ hlegal hinput => ⟨_, step_of_reset hlegal hinput, rfl, rfl, rfl, rfl, rfl, rfl, rfl⟩

/-- Settles O11: the model's choice that a block which is presented nothing waits (log 2). -/
theorem silentHostChangesNothing : Obligations.SilentHostChangesNothing :=
  fun _ => step_of_silent

/-- Settles O13: nothing is stored, and the baselines are all-false of the configured dimensions. -/
theorem resetIsWellFormed : Obligations.ResetIsWellFormed :=
  ⟨fun _ => wf_resetOf, wf_resetOf (by decide)⟩

end Sys2Proof.Machine

/-! PROOFS. What a command depends on (10_state.md R28, R31): one comparison of every command on two blocks,
for the responses given before and for the baselines. -/

namespace Sys2Proof.Machine

/-! ### The two reads of an optional value as checked helpers -/

theorem exec_wget_eq_orReject (wa : WReg) (idx : Word) (s : State) :
    exec (.wget wa idx) s =
      orReject ((s.stream wa)[idx.toNat]?.elim (.error .oobStream) .ok) s
        fun b => answer b.toNat s := by
  change execWget wa idx s = _
  rw [execWget, operand_eq_toNat]
  cases (s.stream wa)[idx.toNat]? <;> rfl

theorem exec_rdcr_eq_orReject (k : Byte) (s : State) :
    exec (.rdcr k) s =
      orReject ((s.controlRegister k.toNat).elim (.error .badCr) .ok) s fun v => answer v s := by
  change execRdcr k s = _
  rw [execRdcr]
  cases s.controlRegister k.toNat <;> rfl

/-! ### Two blocks that a command does not tell apart -/

/-- Blocks related by `R` read alike, but for the baselines and the responses, and `R` is kept by every write. -/
structure ReadsAlike (R : State → State → Prop) : Prop where
  reads : ∀ {s s'}, R s s' → s'.cfg = s.cfg ∧ s'.frames = s.frames ∧ s'.streams = s.streams ∧
    s'.enc.synced = s.enc.synced ∧ s'.dec.synced = s.dec.synced
  setFrame : ∀ {s s'} (d m), R s s' → R (s.setFrame d m) (s'.setFrame d m)
  setStream : ∀ {s s'} (d b), R s s' → R (s.setStream d b) (s'.setStream d b)
  setContext : ∀ {s s'} (c x), R s s' → R (s.setContext c x) (s'.setContext c x)

/-- `x` in `s` and `x'` in `s'` are one end of a command: the same OK response from related blocks, or the
same rejection. -/
inductive EndAlike (R : State → State → Prop) (s s' : State) : Result → Result → Prop
  | answered {v : Nat} {u u' : State} (h : R u u') : EndAlike R s s' (answer v u) (answer v u')
  | rejected (e : Info) : EndAlike R s s' (reject e s) (reject e s')

namespace EndAlike

section
variable {R : State → State → Prop} {s s' : State}

theorem of_ite {p : Prop} [Decidable p] {x y x' y' : Result} (hx : EndAlike R s s' x x')
    (hy : EndAlike R s s' y y') : EndAlike R s s' (if p then x else y) (if p then x' else y') := by
  split
  · exact hx
  · exact hy

theorem of_orReject {α : Type} (x : Except Info α) {k k' : α → Result}
    (hk : ∀ a, EndAlike R s s' (k a) (k' a)) :
    EndAlike R s s' (orReject x s k) (orReject x s' k') := by
  cases x with
  | ok a => exact hk a
  | error e => exact rejected e

end
end EndAlike

open EndAlike in
/-- A command ends alike on related blocks; DFENC and DFDEC read a baseline, so theirs have to be equal. -/
theorem exec_endAlike {R : State → State → Prop} (hR : ReadsAlike R) {s s' : State} (h : R s s')
    (i : Instr) (hbase : (∀ wd fa, i ≠ .dfenc wd fa) ∧ (∀ fd wa, i ≠ .dfdec fd wa) ∨
      s'.enc.latest = s.enc.latest ∧ s'.dec.latest = s.dec.latest) :
    EndAlike R s s' (exec i s) (exec i s') := by
  have hreads := hR.reads h
  obtain ⟨cfg, frames, streams, ⟨syncE, baseE⟩, ⟨syncD, baseD⟩, input, responses⟩ := s
  obtain ⟨cfg', frames', streams', ⟨syncE', baseE'⟩, ⟨syncD', baseD'⟩, input', responses'⟩ := s'
  obtain ⟨rfl, rfl, rfl, rfl, rfl⟩ := hreads
  cases i with
  | fnew fd rows cols => exact of_ite (answered (hR.setFrame _ _ h)) (rejected .fCap)
  | fget fa row col => exact of_orReject _ fun _ => answered h
  | fset fd v row col => exact of_orReject _ fun _ => answered (hR.setFrame _ _ h)
  | feq fa fb => exact answered h
  | fdown fd hScale vScale => exact of_ite (rejected .zeroScale) (answered (hR.setFrame _ _ h))
  | frows fa => exact answered h
  | fcols fa => exact answered h
  | fxor fd fa fb => exact of_ite (answered (hR.setFrame _ _ h)) (rejected .operands)
  | fxora fd fa => exact of_ite (answered (hR.setFrame _ _ h)) (rejected .operands)
  | vget fa sr sc nr nc row col => exact of_orReject _ fun _ => answered h
  | vset fd v sr sc nr nc row col => exact of_orReject _ fun _ => answered (hR.setFrame _ _ h)
  | vexp wd fa sr sc nr nc =>
    exact of_ite (of_orReject _ fun _ => answered (hR.setStream _ _ h)) (rejected .wCap)
  | rleenc wd fa =>
    exact of_ite (of_ite (answered (hR.setStream _ _ h)) (rejected .wCap)) (rejected .sizeField)
  | rledec fd wa =>
    exact of_orReject _ fun _ => of_ite (answered (hR.setFrame _ _ h)) (rejected .fCap)
  | dfinit c fa => exact of_ite (answered (hR.setContext _ _ h)) (rejected .config)
  | dfenc wd fa =>
    obtain ⟨hne, -⟩ | ⟨rfl, rfl⟩ := hbase
    · exact absurd rfl (hne wd fa)
    · exact of_ite (of_ite (of_ite (answered (hR.setStream _ _ (hR.setContext _ _ h))) (rejected .wCap))
        (rejected .config)) (rejected .notSynced)
  | dfdec fd wa =>
    obtain ⟨-, hne⟩ | ⟨rfl, rfl⟩ := hbase
    · exact absurd rfl (hne fd wa)
    · exact of_ite (of_orReject _ fun _ => of_ite (answered (hR.setFrame _ _ (hR.setContext _ _ h)))
        (rejected .frameSize)) (rejected .notSynced)
  | wclr wd => exact answered (hR.setStream _ _ h)
  | wpush wd byte => exact of_ite (answered (hR.setStream _ _ h)) (rejected .wCap)
  | wlen wa => exact answered h
  | wget wa idx =>
    rw [exec_wget_eq_orReject, exec_wget_eq_orReject]
    exact of_orReject _ fun _ => answered h
  | rdcr k =>
    rw [exec_rdcr_eq_orReject, exec_rdcr_eq_orReject]
    exact of_orReject _ fun _ => answered h

/-- On related blocks a command gives related blocks and the same response. -/
theorem exec_alike {R : State → State → Prop} (hR : ReadsAlike R) {s s' : State} (h : R s s') (i : Instr)
    (hbase : (∀ wd fa, i ≠ .dfenc wd fa) ∧ (∀ fd wa, i ≠ .dfdec fd wa) ∨
      s'.enc.latest = s.enc.latest ∧ s'.dec.latest = s.dec.latest) :
    ∃ u u' r, R u u' ∧ exec i s = .next (u.respond r) ∧ exec i s' = .next (u'.respond r) := by
  generalize hx : exec i s = x
  generalize hx' : exec i s' = x'
  cases hx ▸ hx' ▸ exec_endAlike hR h i hbase with
  | @answered v u u' hu => exact ⟨u, u', Response.ok v, hu, rfl, rfl⟩
  | rejected e => exact ⟨s, s', Response.error e, h, rfl, rfl⟩

/-! ### Earlier responses (10_state.md R28) -/

/-- `s` as it would be with other responses given before. -/
def State.withHistory (history : List Response) (s : State) : State := { s with responses := history }

/-- `s` has the responses `given`, and `s'` is `s` with others. -/
def EqualButHistory (given history : List Response) (s s' : State) : Prop :=
  s.responses = given ∧ s' = s.withHistory history

theorem readsAlike_equalButHistory (given history : List Response) :
    ReadsAlike (EqualButHistory given history) where
  reads := by
    rintro s _ ⟨-, rfl⟩
    exact ⟨rfl, rfl, rfl, rfl, rfl⟩
  setFrame d m := by
    rintro ⟨hgiven, rfl⟩
    exact ⟨hgiven, rfl⟩
  setStream d b := by
    rintro ⟨hgiven, rfl⟩
    exact ⟨hgiven, rfl⟩
  setContext c x := by
    rintro ⟨hgiven, rfl⟩
    exact ⟨(State.setContext_responses _ c x).trans hgiven, by cases c <;> rfl⟩

/-- Settles O18: what is put at the end of the responses is put there whatever they are. -/
theorem statusIsNotVisibleLater : Obligations.StatusIsNotVisibleLater := by
  intro i s history
  obtain ⟨u, -, r, ⟨hgiven, rfl⟩, hexec, hexec'⟩ :=
    exec_alike (readsAlike_equalButHistory s.responses history) ⟨rfl, rfl⟩ i (.inr ⟨rfl, rfl⟩)
  exact ⟨u.respond r, r, hexec, congrArg (· ++ [r]) hgiven, hexec'⟩

/-! ### Reading commands (20_memory.md R48) -/

/-- A reading command names no destination. -/
theorem destinations_of_isRead {i : Instr} (h : isRead i = true) :
    frameDestination i = none ∧ streamDestination i = none ∧ contextDestination i = none := by
  cases i with
  | fget | feq | frows | fcols | vget | wlen | wget | rdcr => exact ⟨rfl, rfl, rfl⟩
  | _ => exact nomatch h

theorem FrameFile.ext_get {f g : FrameFile} (h : ∀ r, g.get r = f.get r) : g = f := by
  cases f; cases g
  exact (FrameFile.mk.injEq ..).mpr ⟨h .f0, h .f1, h .f2, h .f3⟩

theorem StreamFile.ext_get {f g : StreamFile} (h : ∀ r, g.get r = f.get r) : g = f := by
  cases f; cases g
  exact (StreamFile.mk.injEq ..).mpr ⟨h .w0, h .w1, h .w2, h .w3⟩

theorem exec_sameBlock_of_isRead {i : Instr} {s t : State} (hread : isRead i = true)
    (h : exec i s = .next t) : SameBlock s t := by
  obtain ⟨hframe, hstream, hcontext⟩ := destinations_of_isRead hread
  obtain ⟨hcfg, hinput, hframes, hstreams, hcontexts⟩ := commandsChangeOnlyTheirDestinations i s t h
  exact ⟨hcfg, FrameFile.ext_get fun r => hframes r (by simp [hframe]),
    StreamFile.ext_get fun r => hstreams r (by simp [hstream]), hcontexts .enc (by simp [hcontext]),
    hcontexts .dec (by simp [hcontext]), hinput⟩

/-- What changed nothing of the block gave responses at most. -/
theorem SameBlock.eq_withHistory {s t : State} (h : SameBlock s t) : t = s.withHistory t.responses := by
  obtain ⟨hcfg, hframes, hstreams, henc, hdec, hinput⟩ := h
  exact (State.mk.injEq ..).mpr ⟨hcfg, hframes, hstreams, henc, hdec, hinput, rfl⟩

/-- Settles O22: a reading command names no destination, and to the same command its own response is an
earlier one (O18). -/
theorem readsChangeNothing : Obligations.ReadsChangeNothing := by
  intro i s hread
  obtain ⟨t, ht⟩ := exists_exec_eq_next i s
  have hsame := exec_sameBlock_of_isRead hread ht
  obtain ⟨t', r, ht', hresponses, hagain⟩ := statusIsNotVisibleLater i s t.responses
  obtain rfl : t' = t := Host.Outcome.next.inj (ht'.symm.trans ht)
  exact ⟨t', _, r, ht, hsame, hresponses, (congrArg (exec i) hsame.eq_withHistory).trans hagain, hsame, rfl⟩

/-! ### Baselines (10_state.md R31) -/

/-- Blocks that have the responses `given` and differ in the baselines at most. -/
def EqualButBaselines (given : List Response) (s s' : State) : Prop :=
  s'.cfg = s.cfg ∧ s'.frames = s.frames ∧ s'.streams = s.streams ∧ s'.enc.synced = s.enc.synced ∧
    s'.dec.synced = s.dec.synced ∧ s.responses = given ∧ s'.responses = given

theorem readsAlike_equalButBaselines (given : List Response) : ReadsAlike (EqualButBaselines given) where
  reads := fun ⟨hcfg, hframes, hstreams, henc, hdec, _⟩ => ⟨hcfg, hframes, hstreams, henc, hdec⟩
  setFrame d m := fun ⟨hcfg, hframes, hrest⟩ => ⟨hcfg, congrArg (·.set d m) hframes, hrest⟩
  setStream d b := fun ⟨hcfg, hframes, hstreams, hrest⟩ =>
    ⟨hcfg, hframes, congrArg (·.set d b) hstreams, hrest⟩
  setContext c x := fun ⟨hcfg, hframes, hstreams, henc, hdec, hgiven⟩ => by
    cases c with
    | enc => exact ⟨hcfg, hframes, hstreams, rfl, hdec, hgiven⟩
    | dec => exact ⟨hcfg, hframes, hstreams, henc, rfl, hgiven⟩

/-- Settles O20: but for DFENC and DFDEC every command ends alike whatever the baselines are. -/
theorem baselinesAreReadByDeltaCommandsOnly : Obligations.BaselinesAreReadByDeltaCommandsOnly := by
  intro i s me md henc hdec
  obtain ⟨u, u', r, ⟨-, hframes, hstreams, hsyncE, hsyncD, hgiven, hgiven'⟩, hexec, hexec'⟩ :=
    exec_alike (readsAlike_equalButBaselines s.responses) (s := s)
      (s' := { s with enc := { s.enc with latest := me }, dec := { s.dec with latest := md } })
      ⟨rfl, rfl, rfl, rfl, rfl, rfl, rfl⟩ i (.inl ⟨henc, hdec⟩)
  exact ⟨u.respond r, u'.respond r, r, hexec, hexec', congrArg (· ++ [r]) hgiven,
    congrArg (· ++ [r]) hgiven', hframes, hstreams, hsyncE, hsyncD⟩

end Sys2Proof.Machine

/-! PROOFS. Delivery between an encoder and a decoder (44_delta_frame.md R144 to R146): one frame, a session of
frames, a repeated stream and an unchanged frame. -/

namespace Sys2Proof.Machine

/-! ### Deltas -/

/-- Both directions of a delta between bit sequences of one length: XOR with the first gives the second. -/
theorem xorBits_cancel_left {a b : List Bool} (h : a.length = b.length) : xorBits a (xorBits a b) = b := by
  rw [← xorBits_assoc, xorBits_self, xorBits_comm, h, xorBits_replicate_false]

/-- The delta between a baseline and a frame of its dimensions turns the baseline into the frame. -/
theorem applyDelta_delta {l m : MatrixValue} (hl : l.wf) (hm : m.wf) (hr : l.rows = m.rows)
    (hc : l.cols = m.cols) : applyDelta l (xorBits l.bits m.bits) = m :=
  MatrixValue.eq_iff_fields.mpr ⟨hr, hc, xorBits_cancel_left (by rw [hl, hm, hr, hc])⟩

/-- A delta applied twice undoes itself. -/
theorem applyDelta_applyDelta {l : MatrixValue} {x : List Bool} (hl : l.wf)
    (hx : x.length = l.rows * l.cols) : applyDelta (applyDelta l x) x = l :=
  MatrixValue.eq_iff_fields.mpr ⟨rfl, rfl, by
    change xorBits (xorBits l.bits x) x = l.bits
    rw [xorBits_comm, xorBits_comm l.bits, xorBits_cancel_left (hx.trans hl.symm)]⟩

/-- The codec depends on the two widths alone (43_rle_codec.md section 1). -/
theorem rleEncode_eq_of_widths {p q : Config} (hrun : p.runWidth = q.runWidth)
    (hsize : p.sizeWidth = q.sizeWidth) (b : List Bool) : rleEncode p b = rleEncode q b := by
  have hmax : p.maxRun = q.maxRun := by rw [Config.maxRun, hrun, Config.maxRun]
  have hrecord : recordBytes p = recordBytes q := by
    funext r
    rw [recordBytes, recordBytes, Config.recordBytes, Config.recordBytes, hrun, hmax]
  rw [rleEncode, rleEncode, records, records, Config.headerBytes, Config.headerBytes, hsize, hmax, hrecord]

/-- The delta of a frame has as many bits as the frame, each of which may need a record. -/
theorem deltaStream_length_le {s : State} (hs : s.wf) {m : MatrixValue} (hm : m.wf)
    (hr : m.rows = s.cfg.rowsE) (hc : m.cols = s.cfg.colsE) :
    (deltaStream s m).length ≤
      s.cfg.headerBytes + s.cfg.recordBytes * (s.cfg.rowsE * s.cfg.colsE) := by
  obtain ⟨-, -, -, ⟨hwf, hrows, hcols⟩, -⟩ := hs
  have hlen : (xorBits s.enc.latest.bits m.bits).length = s.cfg.rowsE * s.cfg.colsE := by
    rw [xorBits_length, hwf, hm, hr, hc, hrows, hcols]
    exact Nat.min_self _
  exact hlen ▸ rleEncode_length_le s.cfg _

/-! ### One command of a delivery -/

section
variable {s : State} {fa fd : FReg} {wd wa : WReg} {m : MatrixValue} {x : List Bool}

/-- What DFENC does when it is carried out (44_delta_frame.md R142). -/
theorem exists_dfenc_of_fits (hsync : s.enc.synced = true) (hr : (s.frame fa).rows = s.cfg.rowsE)
    (hc : (s.frame fa).cols = s.cfg.colsE)
    (hcap : (deltaStream s (s.frame fa)).length ≤ s.cfg.bytesCap) :
    ∃ t, exec (.dfenc wd fa) s = .next t ∧ Answered s t 0 ∧
      t.stream wd = deltaStream s (s.frame fa) ∧ t.enc = { synced := true, latest := s.frame fa } ∧
      t.cfg = s.cfg ∧ t.dec = s.dec := by
  obtain ⟨t, ht, ⟨hcfg, -, -, henc, hdec, -⟩, hans, hstream⟩ :=
    answer_setStream (s.initialise .enc (s.frame fa)) wd (deltaStream s (s.frame fa))
  exact ⟨t, (exec_dfenc_of_fits hsync hr hc hcap).trans ht, hans, hstream, henc, hcfg, hdec⟩

/-- What DFDEC does when it is carried out (44_delta_frame.md R143). -/
theorem exists_dfdec_of_length (fd : FReg) (hsync : s.dec.synced = true)
    (hdecode : rleDecode s.cfg (s.stream wa) = .ok x)
    (hlen : x.length = s.dec.latest.rows * s.dec.latest.cols) :
    ∃ t, exec (.dfdec fd wa) s = .next t ∧ Answered s t 0 ∧ t.frame fd = applyDelta s.dec.latest x ∧
      t.dec = { synced := true, latest := applyDelta s.dec.latest x } ∧
      t.cfg = s.cfg ∧ t.streams = s.streams ∧ t.enc = s.enc := by
  obtain ⟨t, ht, ⟨hcfg, -, hstreams, henc, hdec, -⟩, hans, hframe⟩ :=
    answer_setFrame (s.initialise .dec (applyDelta s.dec.latest x)) fd (applyDelta s.dec.latest x)
  exact ⟨t, (exec_dfdec_of_length hsync hdecode hlen).trans ht, hans, hframe, hdec, hcfg, hstreams, henc⟩

/-- DFDEC of the stream of the delta between its baseline and a frame gives the frame. -/
theorem exists_dfdec_of_delta (fd : FReg) (hs : s.wf) (hsync : s.dec.synced = true) (hm : m.wf)
    (hr : s.dec.latest.rows = m.rows) (hc : s.dec.latest.cols = m.cols)
    (hstream : s.stream wa = rleEncode s.cfg (xorBits s.dec.latest.bits m.bits)) :
    ∃ t, exec (.dfdec fd wa) s = .next t ∧ Answered s t 0 ∧ t.frame fd = m ∧
      t.dec = { synced := true, latest := m } ∧ t.cfg = s.cfg ∧ t.enc = s.enc := by
  obtain ⟨hlegal, -, -, -, hbase, hrows, hcols⟩ := hs
  have hlen : (xorBits s.dec.latest.bits m.bits).length = s.dec.latest.rows * s.dec.latest.cols := by
    rw [xorBits_length, hbase, hm, hr, hc, Nat.min_self]
  have hsize : (xorBits s.dec.latest.bits m.bits).length < 2 ^ s.cfg.sizeWidth := by
    obtain ⟨-, hfits⟩ := Config.frame_fits_of_legal hlegal .dec
    rwa [hlen, hrows, hcols]
  have hdecode : rleDecode s.cfg (s.stream wa) = .ok (xorBits s.dec.latest.bits m.bits) := by
    rw [hstream, rleDecode_rleEncode hlegal hsize]
  obtain ⟨t, ht, hans, hframe, hdec, hcfg, -, henc⟩ := exists_dfdec_of_length fd hsync hdecode hlen
  rw [applyDelta_delta hbase hm hr hc] at hframe hdec
  exact ⟨t, ht, hans, hframe, hdec, hcfg, henc⟩

end

/-! ### A session (44_delta_frame.md R144) -/

/-- Encoder and decoder are Synced on `m`, and a wire-stream register holds the longest stream of a frame. -/
structure InSession (s : State) (m : MatrixValue) : Prop where
  wf : s.wf
  enc : s.enc = { synced := true, latest := m }
  dec : s.dec = { synced := true, latest := m }
  cap : s.cfg.headerBytes + s.cfg.recordBytes * (s.cfg.rowsE * s.cfg.colsE) ≤ s.cfg.bytesCap

theorem deliver_eq_some {fa fd : FReg} {wd : WReg} {s t u : State} {x : MatrixValue}
    (hencode : exec (.dfenc wd fa) (s.setFrame fa x) = .next t)
    (hdecode : exec (.dfdec fd wd) t = .next u) : deliver fa fd wd s x = some u := by
  simp [deliver, hencode, hdecode]

/-- A delivery returns its frame, and the session goes on with that frame as baseline. -/
theorem InSession.exists_deliver {s : State} {m x : MatrixValue} (h : InSession s m) (fa fd : FReg)
    (wd : WReg) (hx : x.wf) (hr : x.rows = s.cfg.rowsE) (hc : x.cols = s.cfg.colsE) :
    ∃ u, deliver fa fd wd s x = some u ∧ u.frame fd = x ∧ InSession u x ∧ u.cfg = s.cfg := by
  obtain ⟨hs, henc, hdec, hcap⟩ := h
  obtain ⟨hlegal, -, -, ⟨-, hrows, hcols⟩, -⟩ := id hs
  rw [henc] at hrows hcols
  have hput : (s.setFrame fa x).wf :=
    hs.setFrame fa (MatrixValue.fits_of_context (c := .enc) hlegal hx hr hc)
  have hframe : (s.setFrame fa x).frame fa = x := State.setFrame_frame_same s fa x
  obtain ⟨t, ht, -, hstream, htenc, htcfg, htdec⟩ := exists_dfenc_of_fits (s := s.setFrame fa x)
    (fa := fa) (wd := wd) (by rw [State.setFrame_enc, henc]) (by rwa [hframe]) (by rwa [hframe])
    (by rw [hframe]; exact (deltaStream_length_le hput hx hr hc).trans hcap)
  rw [hframe] at hstream htenc
  rw [State.setFrame_cfg] at htcfg
  rw [State.setFrame_dec, hdec] at htdec
  obtain ⟨u, hu, -, hreturned, hudec, hucfg, huenc⟩ := exists_dfdec_of_delta (s := t) (m := x) fd
    (exec_keeps_wf hput ht) (by rw [htdec]) hx (by rw [htdec, hr]; exact hrows)
    (by rw [htdec, hc]; exact hcols)
    (by rw [hstream, htcfg, htdec, deltaStream, State.setFrame_enc, henc, State.setFrame_cfg])
  have hcfg : u.cfg = s.cfg := hucfg.trans htcfg
  exact ⟨u, deliver_eq_some ht hu, hreturned,
    ⟨exec_keeps_wf (exec_keeps_wf hput ht) hu, huenc.trans htenc, hudec, by rwa [hcfg]⟩, hcfg⟩

/-- A session returns its frames and ends with the last of them as baseline. -/
theorem InSession.exists_deliverAll (fa fd : FReg) (wd : WReg) {xs : List MatrixValue} {s : State}
    {m : MatrixValue} (h : InSession s m)
    (hxs : ∀ x ∈ xs, x.wf ∧ x.rows = s.cfg.rowsE ∧ x.cols = s.cfg.colsE) :
    ∃ u, deliverAll fa fd wd s xs = some (u, xs) ∧ InSession u (xs.getLastD m) := by
  induction xs generalizing s m with
  | nil => exact ⟨s, rfl, h⟩
  | cons x xs ih =>
    obtain ⟨⟨hx, hr, hc⟩, hrest⟩ := List.forall_mem_cons.mp hxs
    obtain ⟨t, hdeliver, hframe, ht, hcfg⟩ := h.exists_deliver fa fd wd hx hr hc
    obtain ⟨u, hall, hu⟩ := ih ht (by rwa [hcfg])
    refine ⟨u, ?_, by rwa [List.getLastD_cons]⟩
    rw [deliverAll, hdeliver]
    simp [hall, hframe]

/-! ### The statements -/

/-- Settles O53: DFENC writes the stream of the delta, which the receiver's decoder reads back because the
widths are equal, and the delta turns the common baseline into the frame. -/
theorem deltaRoundTripBetweenBlocks : Obligations.DeltaRoundTripBetweenBlocks := by
  intro s r wd fa hs hr hrun hsize hsyncE hsyncD hbase hrows hcols hcap
  obtain ⟨hframe, -⟩ := hs.frame_fits fa
  obtain ⟨-, -, -, ⟨-, hbaseRows, hbaseCols⟩, -⟩ := hs
  obtain ⟨t, ht, -, hstream, henc, -⟩ := exists_dfenc_of_fits (wd := wd) hsyncE hrows hcols hcap
  refine ⟨t, ht, henc, fun wa fd hsent => ?_⟩
  rw [hstream, deltaStream, rleEncode_eq_of_widths hrun hsize, hbase] at hsent
  rw [hbase] at hbaseRows hbaseCols
  obtain ⟨u, hu, hans, hframe, hdec, -⟩ := exists_dfdec_of_delta fd hr hsyncD hframe
    (hbaseRows.trans hrows.symm) (hbaseCols.trans hcols.symm) hsent
  exact ⟨u, hu, hans, hframe, hdec⟩

/-- Settles O54: one delivery keeps the session (`InSession.exists_deliver`), so by induction every frame comes
back. -/
theorem deltaSessionReturnsEveryFrame : Obligations.DeltaSessionReturnsEveryFrame := by
  intro s fa fd wd xs hs hsyncE hsyncD hbase hcap hxs
  have hsession : InSession s s.enc.latest :=
    ⟨hs, by rw [← hsyncE], by rw [hbase, ← hsyncD], hcap⟩
  obtain ⟨u, hall, -, henc, hdec, -⟩ := hsession.exists_deliverAll fa fd wd hxs
  exact ⟨u, hall, by rw [henc], by rw [hdec], by rw [henc], by rw [hdec, hbase]⟩

/-- Settles O55: the second application finds the same stream and the first one's frame as baseline. -/
theorem repeatedStreamUndoesItself : Obligations.RepeatedStreamUndoesItself := by
  intro s t fd fd' wa x hs hsync hdecode hx ht
  obtain ⟨-, -, -, -, hbase, hrows, hcols⟩ := hs
  have hlen : x.length = s.dec.latest.rows * s.dec.latest.cols := by rwa [hrows, hcols]
  obtain ⟨t', ht', -, -, hdec, hcfg, hstreams, -⟩ := exists_dfdec_of_length fd hsync hdecode hlen
  obtain rfl : t' = t := Host.Outcome.next.inj (ht'.symm.trans ht)
  have hstream : t'.stream wa = s.stream wa := congrArg (·.get wa) hstreams
  obtain ⟨u, hu, hans, hframe, hdec', -⟩ := exists_dfdec_of_length (s := t') (wa := wa) (x := x) fd'
    (by rw [hdec]) (by rw [hcfg, hstream, hdecode]) (by rw [hdec]; exact hlen)
  rw [hdec, applyDelta_applyDelta hbase hlen] at hframe hdec'
  exact ⟨u, hu, hans, hdec'.trans (by rw [← hsync]), hframe⟩

/-- Settles O56: a bit sequence XORed with itself is all false, and the baseline written is the one that
stands there. -/
theorem unchangedFrameGivesZeroDelta : Obligations.UnchangedFrameGivesZeroDelta := by
  intro s wd fa hs hsync hbase hcap
  obtain ⟨-, -, -, ⟨hwf, hrows, hcols⟩, -⟩ := hs
  have hdelta : deltaStream s (s.frame fa) =
      rleEncode s.cfg (List.replicate (s.cfg.rowsE * s.cfg.colsE) false) := by
    rw [deltaStream, ← hbase, xorBits_self, hwf, hrows, hcols]
    rfl
  rw [hbase] at hrows hcols
  obtain ⟨t, ht, hans, hstream, henc, -⟩ :=
    exists_dfenc_of_fits (wd := wd) hsync hrows hcols (hdelta ▸ hcap)
  exact ⟨t, ht, hans, henc.trans (by rw [← hbase, ← hsync]), hstream.trans hdelta⟩

end Sys2Proof.Machine
